-- ==== Sys2Proof/Word.lean ====
section
/-! DEFINITION. Bytes and words (00_scope.md R9): the bit vectors every register, address and instruction byte is made of. -/

namespace Sys2Proof

/-- A byte: 8 bits, value 0..255 (R9). -/
abbrev Byte := BitVec 8

/-- A word: 16 bits, value 0..65535 (R9); the width of `pc`, `sp` and of an address (R7). -/
abbrev Word := BitVec 16

end Sys2Proof
end

