-- ==== Sys2Proof/Syntax.lean ====
section
/-! DEFINITION. The instructions, one constructor per mnemonic of spec/opcode_table.json (its 173 rows have 116 mnemonics;
rows that share a mnemonic differ in the register code only, 30_encoding.md R112). LAWS.json maps each constructor to its
mnemonic. Operand names are the spec's: `n` an unsigned byte, `nn` a word, `e` a signed offset kept as its byte, `b` a bit
index, `v` an `RST` target (30_encoding.md R107 to R111). -/

namespace Sys2Proof

/-- The 8-bit operands of a register field: codes 0 to 5 and 7 of R95. Code 6 is no register. -/
inductive Reg8 where
  | b | c | d | e | h | l | a
  deriving DecidableEq, Repr

/-- The 16-bit operands `rr[p]` of R96. -/
inductive RR where
  | bc | de | hl | sp
  deriving DecidableEq, Repr

/-- The 16-bit operands `qq[p]` of R96 (PUSH and POP). -/
inductive QQ where
  | bc | de | hl | af
  deriving DecidableEq, Repr

/-- The branch conditions of R97. -/
inductive Cond where
  | nz | z | nc | c
  deriving DecidableEq, Repr

/-- One instruction of the GBJS instruction set. -/
inductive Instr where
  -- primary table, x = 0
  | nop
  | ldRrNn (p : RR) (nn : Word)
  | ldBCA
  | incRr (p : RR)
  | incR (r : Reg8)
  | decR (r : Reg8)
  | ldRN (r : Reg8) (n : Byte)
  | rlca
  | ldNnSP (nn : Word)
  | addHLRr (p : RR)
  | ldABC
  | decRr (p : RR)
  | rrca
  | djnz (e : Byte)
  | ldDEA
  | rla
  | jr (e : Byte)
  | ldADE
  | rra
  | jrCc (cc : Cond) (e : Byte)
  | ldiHLA
  | daa
  | ldiAHL
  | cpl
  | lddHLA
  | incHL
  | decHL
  | ldHLN (n : Byte)
  | scf
  | lddAHL
  | ccf
  -- primary table, x = 1
  | ldRR (rd rs : Reg8)
  | ldRHL (r : Reg8)
  | ldHLR (r : Reg8)
  | halt
  -- primary table, x = 2
  | addAR (r : Reg8)
  | addAHL
  | adcAR (r : Reg8)
  | adcAHL
  | subR (r : Reg8)
  | subHL
  | sbcAR (r : Reg8)
  | sbcAHL
  | andR (r : Reg8)
  | andHL
  | xorR (r : Reg8)
  | xorHL
  | orR (r : Reg8)
  | orHL
  | cpR (r : Reg8)
  | cpHL
  -- primary table, x = 3
  | retCc (cc : Cond)
  | popRr (q : QQ)
  | jpCcNn (cc : Cond) (nn : Word)
  | jpNn (nn : Word)
  | callCcNn (cc : Cond) (nn : Word)
  | pushQq (q : QQ)
  | addAN (n : Byte)
  | rst (v : Byte)
  | ret
  | cbPrefix
  | callNn (nn : Word)
  | adcAN (n : Byte)
  | unassignedD3
  | subN (n : Byte)
  | reti
  | unassignedDB
  | unassignedDD
  | sbcAN (n : Byte)
  | ldhNA (n : Byte)
  | ldCA
  | unassignedE3
  | unassignedE4
  | andN (n : Byte)
  | addSPE (e : Byte)
  | jpHL
  | ldNnA (nn : Word)
  | unassignedEB
  | unassignedEC
  | unassignedED
  | xorN (n : Byte)
  | ldhAN (n : Byte)
  | popAF
  | ldAC
  | di
  | unassignedF4
  | orN (n : Byte)
  | ldHLSPE (e : Byte)
  | ldSPHL
  | ldANn (nn : Word)
  | ei
  | unassignedFC
  | unassignedFD
  | cpN (n : Byte)
  -- secondary table, x = 0
  | rlcR (r : Reg8)
  | rlcHL
  | rrcR (r : Reg8)
  | rrcHL
  | rlR (r : Reg8)
  | rlHL
  | rrR (r : Reg8)
  | rrHL
  | slaR (r : Reg8)
  | unassignedCB26
  | sraR (r : Reg8)
  | unassignedCB2E
  | sllR (r : Reg8)
  | unassignedCB36
  | srlR (r : Reg8)
  | unassignedCB3E
  -- secondary table, x = 1, 2, 3
  | bitR (b : Nat) (r : Reg8)
  | bitHL (b : Nat)
  | resR (b : Nat) (r : Reg8)
  | resHL (b : Nat)
  | setR (b : Nat) (r : Reg8)
  | setHL (b : Nat)
  deriving DecidableEq, Repr

end Sys2Proof
end

