-- ==== Sys2Proof/WellFormed.lean ====
section
/-! DEFINITION. Which instruction terms an encoding exists for. Three operands are wider in their Lean type than in the
encoding: a bit index (30_encoding.md R110: 0..7), an `RST` target (R109: one of eight multiples of 8) and the pair of
`POP rr` (47_stack.md R273: `p` in 0..2, since `POP AF` is an instruction of its own, R274). -/

namespace Sys2Proof

/-- R110: `b` is in 0..7. -/
def wfBit (b : Nat) : Bool := b < 8

/-- R109: `v = y * 8`, one of `0x00 0x08 0x10 0x18 0x20 0x28 0x30 0x38`. -/
def wfRst (v : Byte) : Bool := v &&& 0x38 == v

/-- R273: the pair of `POP rr` is `BC`, `DE` or `HL`. -/
def wfPop : QQ → Bool
  | .bc => true
  | .de => true
  | .hl => true
  | .af => false

/-- The instruction has an encoding in the tables of 30_encoding.md. -/
def Instr.wf : Instr → Bool
  | .rst v => wfRst v
  | .popRr q => wfPop q
  | .bitR b _ | .bitHL b | .resR b _ | .resHL b | .setR b _ | .setHL b => wfBit b
  | .nop | .ldRrNn _ _ | .ldBCA | .incRr _ | .incR _ | .decR _ | .ldRN _ _ | .rlca | .ldNnSP _ | .addHLRr _ | .ldABC
  | .decRr _ | .rrca | .djnz _ | .ldDEA | .rla | .jr _ | .ldADE | .rra | .jrCc _ _ | .ldiHLA | .daa | .ldiAHL | .cpl
  | .lddHLA | .incHL | .decHL | .ldHLN _ | .scf | .lddAHL | .ccf | .ldRR _ _ | .ldRHL _ | .ldHLR _ | .halt | .addAR _
  | .addAHL | .adcAR _ | .adcAHL | .subR _ | .subHL | .sbcAR _ | .sbcAHL | .andR _ | .andHL | .xorR _ | .xorHL | .orR _
  | .orHL | .cpR _ | .cpHL | .retCc _ | .jpCcNn _ _ | .jpNn _ | .callCcNn _ _ | .pushQq _ | .addAN _ | .ret | .cbPrefix
  | .callNn _ | .adcAN _ | .unassignedD3 | .subN _ | .reti | .unassignedDB | .unassignedDD | .sbcAN _ | .ldhNA _ | .ldCA
  | .unassignedE3 | .unassignedE4 | .andN _ | .addSPE _ | .jpHL | .ldNnA _ | .unassignedEB | .unassignedEC | .unassignedED
  | .xorN _ | .ldhAN _ | .popAF | .ldAC | .di | .unassignedF4 | .orN _ | .ldHLSPE _ | .ldSPHL | .ldANn _ | .ei
  | .unassignedFC | .unassignedFD | .cpN _ | .rlcR _ | .rlcHL | .rrcR _ | .rrcHL | .rlR _ | .rlHL | .rrR _ | .rrHL
  | .slaR _ | .unassignedCB26 | .sraR _ | .unassignedCB2E | .sllR _ | .unassignedCB36 | .srlR _ | .unassignedCB3E => true

end Sys2Proof
end

