-- ==== Sys2Proof/Decode.lean ====
section
/-! DEFINITION. The decoder and, after it, the encoder, both written from the tables of 30_encoding.md (R94 to R103).
Decoding has the two levels of the hardware: the primary table is indexed by the first byte; its row `0xCB` is the prefix,
whose handler reads one further byte and looks it up in the secondary table (49_control_meta.md R314). -/

namespace Sys2Proof

/-! ### Fields of an opcode byte (R94) and the operand codes (R95, R96, R97) -/

/-- `x = op[7:6]` (R94). -/
def fieldX (op : Byte) : Fin 4 := ⟨op.toNat / 64, by omega⟩
/-- `y = op[5:3]` (R94). -/
def fieldY (op : Byte) : Fin 8 := ⟨op.toNat / 8 % 8, by omega⟩
/-- `z = op[2:0]` (R94). -/
def fieldZ (op : Byte) : Fin 8 := ⟨op.toNat % 8, by omega⟩
/-- `p = op[5:4]` (R94). -/
def fieldP (op : Byte) : Fin 4 := ⟨op.toNat / 16 % 4, by omega⟩
/-- `q = op[3]` (R94). -/
def fieldQ (op : Byte) : Fin 2 := ⟨op.toNat / 8 % 2, by omega⟩
/-- `op[4:3]`, the condition code (R97). -/
def fieldCc (op : Byte) : Fin 4 := ⟨op.toNat / 8 % 4, by omega⟩

/-- The register a 3-bit code names (R95); code 6 names none: it is the byte at `hl`. -/
def regOf : Fin 8 → Option Reg8
  | 0 => some .b
  | 1 => some .c
  | 2 => some .d
  | 3 => some .e
  | 4 => some .h
  | 5 => some .l
  | 6 => none
  | 7 => some .a

/-- The pair `rr[p]` (R96). -/
def rrOf : Fin 4 → RR
  | 0 => .bc
  | 1 => .de
  | 2 => .hl
  | 3 => .sp

/-- The pair `qq[p]` (R96). -/
def qqOf : Fin 4 → QQ
  | 0 => .bc
  | 1 => .de
  | 2 => .hl
  | 3 => .af

/-- The condition a 2-bit code names (R97). -/
def condOf : Fin 4 → Cond
  | 0 => .nz
  | 1 => .z
  | 2 => .nc
  | 3 => .c

/-- The word `hi:lo` of two instruction bytes, low byte first in the stream (R93). -/
def wordOf (lo hi : Byte) : Word := hi ++ lo

/-! ### The primary table (R99, R100) -/

/-- A row of the primary table: the format (R91) and the instruction, given its operand bytes. -/
inductive Row where
  /-- Format OP: one byte. -/
  | op (i : Instr)
  /-- Format OP_N: one operand byte. -/
  | opN (k : Byte → Instr)
  /-- Format OP_NN: two operand bytes, low byte first. -/
  | opNN (k : Word → Instr)
  /-- Format CB: the prefix, whose handler reads the secondary byte. -/
  | cb

/-- The instruction with a register operand, or the `(HL)` form where the code is 6. -/
def regOr (code : Fin 8) (onReg : Reg8 → Instr) (onHL : Instr) : Instr :=
  match regOf code with
  | some r => onReg r
  | none => onHL

/-- Rows with `x = 0` (R99). -/
def rowX0 (op : Byte) : Row :=
  let y := fieldY op
  let p := rrOf (fieldP op)
  match fieldZ op with
  | 0 => match y with
    | 0 => .op .nop
    | 1 => .opNN .ldNnSP
    | 2 => .opN .djnz
    | 3 => .opN .jr
    | 4 | 5 | 6 | 7 => .opN (.jrCc (condOf (fieldCc op)))
  | 1 => match fieldQ op with
    | 0 => .opNN (.ldRrNn p)
    | 1 => .op (.addHLRr p)
  | 2 => match y with
    | 0 => .op .ldBCA
    | 1 => .op .ldABC
    | 2 => .op .ldDEA
    | 3 => .op .ldADE
    | 4 => .op .ldiHLA
    | 5 => .op .ldiAHL
    | 6 => .op .lddHLA
    | 7 => .op .lddAHL
  | 3 => match fieldQ op with
    | 0 => .op (.incRr p)
    | 1 => .op (.decRr p)
  | 4 => .op (regOr y .incR .incHL)
  | 5 => .op (regOr y .decR .decHL)
  | 6 => match regOf y with
    | some r => .opN (.ldRN r)
    | none => .opN .ldHLN
  | 7 => match y with
    | 0 => .op .rlca
    | 1 => .op .rrca
    | 2 => .op .rla
    | 3 => .op .rra
    | 4 => .op .daa
    | 5 => .op .cpl
    | 6 => .op .scf
    | 7 => .op .ccf

/-- Rows with `x = 1` (R99): loads between registers and the byte at `hl`; `y = z = 6` is `HALT`. -/
def rowX1 (op : Byte) : Row :=
  match regOf (fieldY op), regOf (fieldZ op) with
  | some rd, some rs => .op (.ldRR rd rs)
  | some rd, none => .op (.ldRHL rd)
  | none, some rs => .op (.ldHLR rs)
  | none, none => .op .halt

/-- Rows with `x = 2` (R99): the operation codes of R101 with the source `z`. -/
def rowX2 (op : Byte) : Row :=
  let z := fieldZ op
  match fieldY op with
  | 0 => .op (regOr z .addAR .addAHL)
  | 1 => .op (regOr z .adcAR .adcAHL)
  | 2 => .op (regOr z .subR .subHL)
  | 3 => .op (regOr z .sbcAR .sbcAHL)
  | 4 => .op (regOr z .andR .andHL)
  | 5 => .op (regOr z .xorR .xorHL)
  | 6 => .op (regOr z .orR .orHL)
  | 7 => .op (regOr z .cpR .cpHL)

/-- Rows with `x = 3` (R99, R103, R109). -/
def rowX3 (op : Byte) : Row :=
  let y := fieldY op
  let cc := condOf (fieldCc op)
  match fieldZ op with
  | 0 => match y with
    | 0 | 1 | 2 | 3 => .op (.retCc cc)
    | 4 => .opN .ldhNA
    | 5 => .opN .addSPE
    | 6 => .opN .ldhAN
    | 7 => .opN .ldHLSPE
  | 1 => match y with
    | 0 | 2 | 4 => .op (.popRr (qqOf (fieldP op)))
    | 6 => .op .popAF
    | 1 => .op .ret
    | 3 => .op .reti
    | 5 => .op .jpHL
    | 7 => .op .ldSPHL
  | 2 => match y with
    | 0 | 1 | 2 | 3 => .opNN (.jpCcNn cc)
    | 4 => .op .ldCA
    | 5 => .opNN .ldNnA
    | 6 => .op .ldAC
    | 7 => .opNN .ldANn
  | 3 => match y with
    | 0 => .opNN .jpNn
    | 1 => .cb
    | 2 => .op .unassignedD3
    | 3 => .op .unassignedDB
    | 4 => .op .unassignedE3
    | 5 => .op .unassignedEB
    | 6 => .op .di
    | 7 => .op .ei
  | 4 => match y with
    | 0 | 1 | 2 | 3 => .opNN (.callCcNn cc)
    | 4 => .op .unassignedE4
    | 5 => .op .unassignedEC
    | 6 => .op .unassignedF4
    | 7 => .op .unassignedFC
  | 5 => match y with
    | 0 | 2 | 4 | 6 => .op (.pushQq (qqOf (fieldP op)))
    | 1 => .opNN .callNn
    | 3 => .op .unassignedDD
    | 5 => .op .unassignedED
    | 7 => .op .unassignedFD
  | 6 => match y with
    | 0 => .opN .addAN
    | 1 => .opN .adcAN
    | 2 => .opN .subN
    | 3 => .opN .sbcAN
    | 4 => .opN .andN
    | 5 => .opN .xorN
    | 6 => .opN .orN
    | 7 => .opN .cpN
  | 7 => .op (.rst (op &&& 0x38))

/-- The row of the primary table a first byte selects; total (R106). -/
def primaryRow (op : Byte) : Row :=
  match fieldX op with
  | 0 => rowX0 op
  | 1 => rowX1 op
  | 2 => rowX2 op
  | 3 => rowX3 op

/-! ### The secondary table (R102) -/

/-- A row of the secondary table. Each is an instruction of its own (`Secondary.toInstr`). -/
inductive Secondary where
  | rlcR (r : Reg8) | rlcHL
  | rrcR (r : Reg8) | rrcHL
  | rlR (r : Reg8) | rlHL
  | rrR (r : Reg8) | rrHL
  | slaR (r : Reg8) | unassigned26
  | sraR (r : Reg8) | unassigned2E
  | sllR (r : Reg8) | unassigned36
  | srlR (r : Reg8) | unassigned3E
  | bitR (b : Nat) (r : Reg8) | bitHL (b : Nat)
  | resR (b : Nat) (r : Reg8) | resHL (b : Nat)
  | setR (b : Nat) (r : Reg8) | setHL (b : Nat)
  deriving DecidableEq, Repr

/-- The instruction a secondary row stands for. -/
def Secondary.toInstr : Secondary → Instr
  | .rlcR r => .rlcR r
  | .rlcHL => .rlcHL
  | .rrcR r => .rrcR r
  | .rrcHL => .rrcHL
  | .rlR r => .rlR r
  | .rlHL => .rlHL
  | .rrR r => .rrR r
  | .rrHL => .rrHL
  | .slaR r => .slaR r
  | .unassigned26 => .unassignedCB26
  | .sraR r => .sraR r
  | .unassigned2E => .unassignedCB2E
  | .sllR r => .sllR r
  | .unassigned36 => .unassignedCB36
  | .srlR r => .srlR r
  | .unassigned3E => .unassignedCB3E
  | .bitR b r => .bitR b r
  | .bitHL b => .bitHL b
  | .resR b r => .resR b r
  | .resHL b => .resHL b
  | .setR b r => .setR b r
  | .setHL b => .setHL b

/-- The secondary row with a register operand, or the row of code 6. -/
def secRegOr (code : Fin 8) (onReg : Reg8 → Secondary) (on6 : Secondary) : Secondary :=
  match regOf code with
  | some r => onReg r
  | none => on6

/-- The row of the secondary table the byte after `0xCB` selects (R102, R103, R110); total (R106). -/
def secondaryRow (sub : Byte) : Secondary :=
  let z := fieldZ sub
  let y := fieldY sub
  match fieldX sub with
  | 0 => match y with
    | 0 => secRegOr z .rlcR .rlcHL
    | 1 => secRegOr z .rrcR .rrcHL
    | 2 => secRegOr z .rlR .rlHL
    | 3 => secRegOr z .rrR .rrHL
    | 4 => secRegOr z .slaR .unassigned26
    | 5 => secRegOr z .sraR .unassigned2E
    | 6 => secRegOr z .sllR .unassigned36
    | 7 => secRegOr z .srlR .unassigned3E
  | 1 => secRegOr z (.bitR y.val) (.bitHL y.val)
  | 2 => secRegOr z (.resR y.val) (.resHL y.val)
  | 3 => secRegOr z (.setR y.val) (.setHL y.val)

/-! ### The decoder on a list of bytes -/

/-- Why a list of bytes holds no instruction. No byte VALUE is rejected (R106): the unassigned slots decode to terms. -/
inductive DecodeError where
  /-- There is no first byte. -/
  | noOpcode
  /-- The row's operand bytes, or the secondary byte, are not all there. -/
  | truncated
  deriving DecidableEq, Repr

/-- The primary-table decoder: the instruction of the first byte's row with its operand bytes, and the bytes left over. For
`0xCB` it gives the prefix and leaves the secondary byte. -/
def decodePrimary : List Byte → Except DecodeError (Instr × List Byte)
  | [] => .error .noOpcode
  | op :: rest =>
    match primaryRow op, rest with
    | .op i, rest => .ok (i, rest)
    | .cb, rest => .ok (.cbPrefix, rest)
    | .opN k, n :: rest => .ok (k n, rest)
    | .opN _, [] => .error .truncated
    | .opNN k, lo :: hi :: rest => .ok (k (wordOf lo hi), rest)
    | .opNN _, _ => .error .truncated

/-- The decoder: both tables. One whole instruction from the front of a list of bytes, and the bytes left over. -/
def decode (bytes : List Byte) : Except DecodeError (Instr × List Byte) :=
  match decodePrimary bytes with
  | .ok (.cbPrefix, sub :: rest) => .ok ((secondaryRow sub).toInstr, rest)
  | .ok (.cbPrefix, []) => .error .truncated
  | r => r

/-- The bytes of an instruction whose bits the opcode table numbers `w`. A 16-bit row is a secondary one, and the table
numbers it `(0xCB << 8) | sub`, first byte in bits 15:8 (R112); every other row is numbered from its first byte up. Operand
bytes above `nbits` are 0. DESIGN CHOICE, log entry 6. -/
def tableBytes (nbits w : Nat) : List Byte :=
  let byte (k : Nat) : Byte := BitVec.ofNat 8 (w % 2 ^ nbits / 2 ^ (8 * k))
  if nbits = 16 ∧ byte 1 = 0xCB then [0xCB, byte 0, 0] else [byte 0, byte 1, byte 2]

/-- The instruction the decoder reads from a word of the opcode table. A row of 8 bits is a row of the primary table and is
read by that table's decoder, so that the row `0xCB` gives the prefix (R112, R314). Log entry 6. -/
def decodeTableWord (nbits w : Nat) : Option Instr :=
  let read := if nbits ≤ 8 then decodePrimary else decode
  match read (tableBytes nbits w) with
  | .ok (i, _) => some i
  | .error _ => none

/-! ### The encoder -/

/-- The 3-bit code of a register (R95). -/
def Reg8.code : Reg8 → Nat
  | .b => 0
  | .c => 1
  | .d => 2
  | .e => 3
  | .h => 4
  | .l => 5
  | .a => 7

/-- The 2-bit code of `rr[p]` (R96). -/
def RR.code : RR → Nat
  | .bc => 0
  | .de => 1
  | .hl => 2
  | .sp => 3

/-- The 2-bit code of `qq[p]` (R96). -/
def QQ.code : QQ → Nat
  | .bc => 0
  | .de => 1
  | .hl => 2
  | .af => 3

/-- The 2-bit code of a condition (R97). -/
def Cond.code : Cond → Nat
  | .nz => 0
  | .z => 1
  | .nc => 2
  | .c => 3

/-- An opcode byte of fields `x y z` (R94). -/
def xyz (x y z : Nat) : Byte := BitVec.ofNat 8 (64 * x + 8 * y + z)

/-- The two operand bytes of a word, low byte first (R93). -/
def wordBytes (nn : Word) : List Byte := [nn.setWidth 8, (nn >>> 8).setWidth 8]

/-- The bytes of an instruction, from each rule's *Encoding* line. -/
def encode : Instr → List Byte
  | .nop => [0x00]
  | .ldRrNn p nn => xyz 0 (2 * p.code) 1 :: wordBytes nn
  | .ldBCA => [0x02]
  | .incRr p => [xyz 0 (2 * p.code) 3]
  | .incR r => [xyz 0 r.code 4]
  | .decR r => [xyz 0 r.code 5]
  | .ldRN r n => [xyz 0 r.code 6, n]
  | .rlca => [0x07]
  | .ldNnSP nn => 0x08 :: wordBytes nn
  | .addHLRr p => [xyz 0 (2 * p.code + 1) 1]
  | .ldABC => [0x0A]
  | .decRr p => [xyz 0 (2 * p.code + 1) 3]
  | .rrca => [0x0F]
  | .djnz e => [0x10, e]
  | .ldDEA => [0x12]
  | .rla => [0x17]
  | .jr e => [0x18, e]
  | .ldADE => [0x1A]
  | .rra => [0x1F]
  | .jrCc cc e => [xyz 0 (4 + cc.code) 0, e]
  | .ldiHLA => [0x22]
  | .daa => [0x27]
  | .ldiAHL => [0x2A]
  | .cpl => [0x2F]
  | .lddHLA => [0x32]
  | .incHL => [0x34]
  | .decHL => [0x35]
  | .ldHLN n => [0x36, n]
  | .scf => [0x37]
  | .lddAHL => [0x3A]
  | .ccf => [0x3F]
  | .ldRR rd rs => [xyz 1 rd.code rs.code]
  | .ldRHL r => [xyz 1 r.code 6]
  | .ldHLR r => [xyz 1 6 r.code]
  | .halt => [0x76]
  | .addAR r => [xyz 2 0 r.code]
  | .addAHL => [0x86]
  | .adcAR r => [xyz 2 1 r.code]
  | .adcAHL => [0x8E]
  | .subR r => [xyz 2 2 r.code]
  | .subHL => [0x96]
  | .sbcAR r => [xyz 2 3 r.code]
  | .sbcAHL => [0x9E]
  | .andR r => [xyz 2 4 r.code]
  | .andHL => [0xA6]
  | .xorR r => [xyz 2 5 r.code]
  | .xorHL => [0xAE]
  | .orR r => [xyz 2 6 r.code]
  | .orHL => [0xB6]
  | .cpR r => [xyz 2 7 r.code]
  | .cpHL => [0xBE]
  | .retCc cc => [xyz 3 cc.code 0]
  | .popRr q => [xyz 3 (2 * q.code) 1]
  | .jpCcNn cc nn => xyz 3 cc.code 2 :: wordBytes nn
  | .jpNn nn => 0xC3 :: wordBytes nn
  | .callCcNn cc nn => xyz 3 cc.code 4 :: wordBytes nn
  | .pushQq q => [xyz 3 (2 * q.code) 5]
  | .addAN n => [0xC6, n]
  | .rst v => [xyz 3 (v.toNat / 8) 7]
  | .ret => [0xC9]
  | .cbPrefix => [0xCB]
  | .callNn nn => 0xCD :: wordBytes nn
  | .adcAN n => [0xCE, n]
  | .unassignedD3 => [0xD3]
  | .subN n => [0xD6, n]
  | .reti => [0xD9]
  | .unassignedDB => [0xDB]
  | .unassignedDD => [0xDD]
  | .sbcAN n => [0xDE, n]
  | .ldhNA n => [0xE0, n]
  | .ldCA => [0xE2]
  | .unassignedE3 => [0xE3]
  | .unassignedE4 => [0xE4]
  | .andN n => [0xE6, n]
  | .addSPE e => [0xE8, e]
  | .jpHL => [0xE9]
  | .ldNnA nn => 0xEA :: wordBytes nn
  | .unassignedEB => [0xEB]
  | .unassignedEC => [0xEC]
  | .unassignedED => [0xED]
  | .xorN n => [0xEE, n]
  | .ldhAN n => [0xF0, n]
  | .popAF => [0xF1]
  | .ldAC => [0xF2]
  | .di => [0xF3]
  | .unassignedF4 => [0xF4]
  | .orN n => [0xF6, n]
  | .ldHLSPE e => [0xF8, e]
  | .ldSPHL => [0xF9]
  | .ldANn nn => 0xFA :: wordBytes nn
  | .ei => [0xFB]
  | .unassignedFC => [0xFC]
  | .unassignedFD => [0xFD]
  | .cpN n => [0xFE, n]
  | .rlcR r => [0xCB, xyz 0 0 r.code]
  | .rlcHL => [0xCB, 0x06]
  | .rrcR r => [0xCB, xyz 0 1 r.code]
  | .rrcHL => [0xCB, 0x0E]
  | .rlR r => [0xCB, xyz 0 2 r.code]
  | .rlHL => [0xCB, 0x16]
  | .rrR r => [0xCB, xyz 0 3 r.code]
  | .rrHL => [0xCB, 0x1E]
  | .slaR r => [0xCB, xyz 0 4 r.code]
  | .unassignedCB26 => [0xCB, 0x26]
  | .sraR r => [0xCB, xyz 0 5 r.code]
  | .unassignedCB2E => [0xCB, 0x2E]
  | .sllR r => [0xCB, xyz 0 6 r.code]
  | .unassignedCB36 => [0xCB, 0x36]
  | .srlR r => [0xCB, xyz 0 7 r.code]
  | .unassignedCB3E => [0xCB, 0x3E]
  | .bitR b r => [0xCB, xyz 1 b r.code]
  | .bitHL b => [0xCB, xyz 1 b 6]
  | .resR b r => [0xCB, xyz 2 b r.code]
  | .resHL b => [0xCB, xyz 2 b 6]
  | .setR b r => [0xCB, xyz 3 b r.code]
  | .setHL b => [0xCB, xyz 3 b 6]

end Sys2Proof
end

