-- ==== Sys2Proof/Config.lean ====
section
/-! DEFINITION. What is fixed for this machine (00_scope.md R7, R8; 10_state.md R37): the sizes of the memory arrays, the
value of a cell nothing has written, and the value of `pc` that clears the BIOS latch. The hardware has no free value: with
the spec's default parameters nothing in it is "any value" (93_implementation_defined.md, end of part 1). -/

namespace Sys2Proof.Config

/-- `BIOS`: 256 bytes (R8). -/
def biosSize : Nat := 256
/-- `ROM`: 32768 bytes (R37). -/
def romSize : Nat := 32768
/-- `VRAM`: exactly 8192 bytes (R8, decision D25). -/
def vramSize : Nat := 8192
/-- `ERAM`: 8192 bytes (R37). -/
def eramSize : Nat := 8192
/-- `WRAM`: 8192 bytes (R37). -/
def wramSize : Nat := 8192
/-- `OAM`: exactly 160 bytes (R8, decision D25). -/
def oamSize : Nat := 160
/-- `ZRAM`: 128 bytes (R37). -/
def zramSize : Nat := 128

/-- What a cell of an array that nothing has written holds: 0, the power-on value of every array (R39, R360).
DESIGN CHOICE for the BIOS parameter alone, whose bytes the spec leaves open (D22). Log entry 1; unsafe. -/
def unwritten : Byte := 0

/-- The value of `pc` that clears the BIOS latch (R31). -/
def latchAddress : Word := 0x0100

end Sys2Proof.Config
end

