-- ==== Sys2Proof/Machine/State.lean ====
section
/-! DEFINITION. The machine's state, plain data: everything 10_state.md lists (R20 to R37) and the BIOS parameter
(00_scope.md R8), which nothing writes; and the machine right after power-on. -/

namespace Sys2Proof.Machine

/-- A memory array: (index, byte) pairs, indices strictly rising, no entry equal to `Config.unwritten`. -/
abbrev Memory := List Host.Cell

/-- The fault record of R34: whether the failing byte was looked up in the secondary table, the byte, and the address it was
fetched from. -/
structure FaultRecord where
  prefixed : Bool
  opcode   : Byte
  addr     : Word
  deriving DecidableEq, Repr

/-- The state between two `step()` calls. The pairs `bc de hl af` are computed views (R22, R23). -/
structure State where
  /-- The eight 8-bit registers (R20); `a` is the accumulator (R21). -/
  a : Byte
  b : Byte
  c : Byte
  d : Byte
  e : Byte
  h : Byte
  l : Byte
  /-- The flag register: Z N H C in bits 7 6 5 4, storage bits 3:0 (R25, R26). -/
  f : Byte
  /-- The program counter (R29). -/
  pc : Word
  /-- The stack pointer (R24). -/
  sp : Word
  /-- The interrupt-master-enable flag (R32). -/
  ime : Bool
  /-- The BIOS latch (R30). -/
  inbios : Bool
  /-- Set by `HALT` (R33). -/
  halt : Bool
  /-- Set by the fault handler (R34). -/
  stop : Bool
  /-- What the fault handler recorded (R34). -/
  fault : Option FaultRecord
  /-- Machine cycles of the last instruction (R35). -/
  m : Nat
  /-- Clock cycles of the last instruction (R35). -/
  t : Nat
  /-- The running total of machine cycles (R36). -/
  clockM : Nat
  /-- The running total of clock cycles (R36). -/
  clockT : Nat
  /-- The BIOS parameter (R8): constant, read through the overlay (R54). Log entry 1. -/
  bios : Memory
  /-- The memory arrays (R37). -/
  rom : Memory
  vram : Memory
  eram : Memory
  wram : Memory
  oam : Memory
  zram : Memory
  deriving DecidableEq, Repr

/-- Why the machine would stop outside its own architecture. It never does, so there is no constructor: every access and every
operation is total (20_memory.md R64, 60_exceptions.md R330), and the hardware's one exception, the fault handler, is a next
state with `stop` set (R331), not a stop of the model. Nobody raises it; safe. -/
inductive Fault where
  deriving DecidableEq, Repr

/-- Why an instruction has no meaning. -/
inductive Refusal where
  /-- Raised by `exec`'s arm of an instruction not modelled yet (there is none); safe. -/
  | notModelled (mnemonic : String)
  deriving DecidableEq, Repr

/-- Power-on (10_state.md R39, 70_reset_and_hazards.md R360): every register, flag and counter 0, `inbios = 1`, every memory
array all 0. The BIOS parameter is all 0 (log entry 1, DESIGN CHOICE). The host's `reset()` from any other state is
`State.hostReset`. -/
def State.reset : State where
  a := 0
  b := 0
  c := 0
  d := 0
  e := 0
  h := 0
  l := 0
  f := 0
  pc := 0
  sp := 0
  ime := false
  inbios := true
  halt := false
  stop := false
  fault := none
  m := 0
  t := 0
  clockM := 0
  clockT := 0
  bios := []
  rom := []
  vram := []
  eram := []
  wram := []
  oam := []
  zram := []

end Sys2Proof.Machine
end

