-- ==== Sys2Proof/Machine/Memory.lean ====
section
/-! DEFINITION. The memory arrays and the address decoder, the MMU (20_memory.md R50 to R71): one canonical list per array,
one function that says which cell an address selects, and the byte and word accesses over it. All total (R64). -/

namespace Sys2Proof.Machine

/-! ### One array -/

/-- The byte at an index; a cell nothing has written holds `Config.unwritten`. -/
def Memory.get : Memory → Nat → Byte
  | [], _ => Config.unwritten
  | (j, w) :: rest, i => if i = j then w else Memory.get rest i

/-- The array without any entry at an index. -/
def Memory.erase : Memory → Nat → Memory
  | [], _ => []
  | (j, w) :: rest, i => if i = j then Memory.erase rest i else (j, w) :: Memory.erase rest i

/-- The array with an entry put before the first greater index. -/
def Memory.insert : Memory → Nat → Byte → Memory
  | [], i, v => [(i, v)]
  | (j, w) :: rest, i, v => if i < j then (i, v) :: (j, w) :: rest else (j, w) :: Memory.insert rest i v

/-- A write of one byte, keeping the canonical form: writing `Config.unwritten` removes the entry. -/
def Memory.set (mem : Memory) (i : Nat) (v : Byte) : Memory :=
  if v = Config.unwritten then mem.erase i else (mem.erase i).insert i v

/-- The array that holds the bytes from index `i` on and `Config.unwritten` elsewhere. -/
def Memory.ofBytesFrom : Nat → List Byte → Memory
  | _, [] => []
  | i, v :: rest =>
    if v = Config.unwritten then Memory.ofBytesFrom (i + 1) rest else (i, v) :: Memory.ofBytesFrom (i + 1) rest

/-- The canonical form from index `lo` on: indices rising, below the array's size, no entry at its unwritten value. -/
def Memory.wfFrom (size : Nat) : Nat → Memory → Bool
  | _, [] => true
  | lo, (i, v) :: rest => decide (lo ≤ i) && decide (i < size) && v != Config.unwritten && Memory.wfFrom size (i + 1) rest

/-- The canonical form of an array of a given size (R37, R40). -/
def Memory.wf (size : Nat) (mem : Memory) : Bool := Memory.wfFrom size 0 mem

/-! ### The arrays of the machine -/

/-- The arrays behind the decoder: the BIOS parameter (R8) and the six of R37. -/
inductive Region where
  | bios | rom | vram | eram | wram | oam | zram
  deriving DecidableEq, Repr

/-- The size of an array (R8, R37). -/
def Region.size : Region → Nat
  | .bios => Config.biosSize
  | .rom => Config.romSize
  | .vram => Config.vramSize
  | .eram => Config.eramSize
  | .wram => Config.wramSize
  | .oam => Config.oamSize
  | .zram => Config.zramSize

/-- Whether the program can write the array: neither the BIOS nor the ROM (R63). -/
def Region.writable : Region → Bool
  | .bios => false
  | .rom => false
  | .vram => true
  | .eram => true
  | .wram => true
  | .oam => true
  | .zram => true

/-- The array a region names. -/
def State.array (s : State) : Region → Memory
  | .bios => s.bios
  | .rom => s.rom
  | .vram => s.vram
  | .eram => s.eram
  | .wram => s.wram
  | .oam => s.oam
  | .zram => s.zram

/-- The state with one array replaced. -/
def State.setArray (s : State) (r : Region) (mem : Memory) : State :=
  match r with
  | .bios => { s with bios := mem }
  | .rom => { s with rom := mem }
  | .vram => { s with vram := mem }
  | .eram => { s with eram := mem }
  | .wram => { s with wram := mem }
  | .oam => { s with oam := mem }
  | .zram => { s with zram := mem }

/-! ### The decoder -/

/-- What an address selects: a cell of an array, or no storage at all (R60, R61). -/
inductive Loc where
  | cell (r : Region) (index : Nat)
  | absent
  deriving DecidableEq, Repr

/-- The decoder of R52, by the address ranges of R51. -/
def locate (inbios : Bool) (addr : Word) : Loc :=
  let n := addr.toNat
  if n < 0x8000 then (if inbios && decide (n < 0x0100) then .cell .bios n else .cell .rom n)
  else if n < 0xA000 then .cell .vram (n % 0x2000)
  else if n < 0xC000 then .cell .eram (n % 0x2000)
  else if n < 0xFE00 then .cell .wram (n % 0x2000)
  else if n < 0xFEA0 then .cell .oam (n % 0x100)
  else if n < 0xFF80 then .absent
  else .cell .zram (n % 0x80)

/-- `MemRead(addr, 1)` (R52). A read changes no state. -/
def State.memRead (s : State) (addr : Word) : Byte :=
  match locate s.inbios addr with
  | .cell r i => (s.array r).get i
  | .absent => 0

/-- A byte stored in a cell, whatever the array (the host's accesses). -/
def State.poke (s : State) (loc : Loc) (v : Byte) : State :=
  match loc with
  | .cell r i => s.setArray r ((s.array r).set i v)
  | .absent => s

/-- `MemWrite(addr, 1, v)` (R53): ignored where there is no storage and in BIOS and ROM (R60, R61, R63). -/
def State.memWrite (s : State) (addr : Word) (v : Byte) : State :=
  match locate s.inbios addr with
  | .cell r i => if r.writable then s.poke (.cell r i) v else s
  | .absent => s

/-- The low byte of a word. -/
def loByte (w : Word) : Byte := w.setWidth 8

/-- The high byte of a word. -/
def hiByte (w : Word) : Byte := (w >>> 8).setWidth 8

/-- The word `hi:lo` (R9). -/
def joinBytes (hi lo : Byte) : Word := hi ++ lo

/-- `MemRead(addr, 2)` (R66), `addr + 1` modulo 65536 (R68). No instruction uses it on data. -/
def State.memReadWord (s : State) (addr : Word) : Word := joinBytes (s.memRead (addr + 1)) (s.memRead addr)

/-- `MemWrite(addr, 2, v)` (R67): low byte first, `addr + 1` modulo 65536 (R68). -/
def State.memWriteWord (s : State) (addr : Word) (v : Word) : State :=
  (s.memWrite addr (loByte v)).memWrite (addr + 1) (hiByte v)

end Sys2Proof.Machine
end

