-- ==== Sys2Proof/Machine/Operands.lean ====
section
/-! DEFINITION. Every operand form: the 8-bit registers, the pairs, the conditions and the signed offset
(10_state.md R20 to R24; 30_encoding.md R95 to R97, R107, R108). -/

namespace Sys2Proof.Machine

/-- `r[i]` (R95). -/
def State.reg (s : State) : Reg8 → Byte
  | .a => s.a
  | .b => s.b
  | .c => s.c
  | .d => s.d
  | .e => s.e
  | .h => s.h
  | .l => s.l

/-- `r[i] <- v` (R95). -/
def State.setReg (s : State) (r : Reg8) (v : Byte) : State :=
  match r with
  | .a => { s with a := v }
  | .b => { s with b := v }
  | .c => { s with c := v }
  | .d => { s with d := v }
  | .e => { s with e := v }
  | .h => { s with h := v }
  | .l => { s with l := v }

/-- `bc` (R22). -/
def State.bc (s : State) : Word := joinBytes s.b s.c
/-- `de` (R22). -/
def State.de (s : State) : Word := joinBytes s.d s.e
/-- `hl` (R22). -/
def State.hl (s : State) : Word := joinBytes s.h s.l
/-- `af` (R23). -/
def State.af (s : State) : Word := joinBytes s.a s.f

/-- `bc <- v`: the high byte to the first-named register, the low byte to the second (R22). -/
def State.setBC (s : State) (v : Word) : State := { s with b := hiByte v, c := loByte v }
/-- `de <- v` (R22). -/
def State.setDE (s : State) (v : Word) : State := { s with d := hiByte v, e := loByte v }
/-- `hl <- v` (R22). -/
def State.setHL (s : State) (v : Word) : State := { s with h := hiByte v, l := loByte v }
/-- `af <- v` (R23): all eight bits of `f` are written. -/
def State.setAF (s : State) (v : Word) : State := { s with a := hiByte v, f := loByte v }

/-- `rr[p]` (R96). -/
def State.rr (s : State) : RR → Word
  | .bc => s.bc
  | .de => s.de
  | .hl => s.hl
  | .sp => s.sp

/-- `rr[p] <- v` (R96). -/
def State.setRR (s : State) (p : RR) (v : Word) : State :=
  match p with
  | .bc => s.setBC v
  | .de => s.setDE v
  | .hl => s.setHL v
  | .sp => { s with sp := v }

/-- `qq[p]` (R96). -/
def State.qq (s : State) : QQ → Word
  | .bc => s.bc
  | .de => s.de
  | .hl => s.hl
  | .af => s.af

/-- `qq[p] <- v` (R96). -/
def State.setQQ (s : State) (q : QQ) (v : Word) : State :=
  match q with
  | .bc => s.setBC v
  | .de => s.setDE v
  | .hl => s.setHL v
  | .af => s.setAF v

/-- The byte at `hl`: what register code 6 selects (R95). -/
def State.atHL (s : State) : Byte := s.memRead s.hl

/-- The high-page address `0xFF00 + n` (R107, R134 to R137). -/
def highPage (n : Byte) : Word := joinBytes 0xFF n

/-- `sext8(n)` as a word: the signed offset of R108, modulo 65536. -/
def sext8 (n : Byte) : Word := n.signExtend 16

end Sys2Proof.Machine
end

