-- ==== Sys2Proof/Machine/Flags.lean ====
section
/-! DEFINITION. The flag bits (10_state.md R25 to R28), the conditions that read them (30_encoding.md R97) and every
computation that writes them, each as a pair (result, new `f`). Arithmetic is exact on integers and narrowed at the end
(43_alu8.md R208). -/

namespace Sys2Proof.Machine

/-! ### Bits of `f` -/

/-- `Z`, bit 7 (R25). -/
def flagZ (f : Byte) : Bool := f.getLsbD 7
/-- `N`, bit 6 (R25). -/
def flagN (f : Byte) : Bool := f.getLsbD 6
/-- `H`, bit 5 (R25). -/
def flagH (f : Byte) : Bool := f.getLsbD 5
/-- `C`, bit 4 (R25). -/
def flagC (f : Byte) : Bool := f.getLsbD 4

/-- A byte with one bit, given by its mask, written and no other changed. -/
def withMask (f mask : Byte) (x : Bool) : Byte := if x then f ||| mask else f &&& ~~~mask

/-- `Z <- x`, no other bit of `f` changed (00_scope.md R10). -/
def setZ (f : Byte) (x : Bool) : Byte := withMask f 0x80 x
/-- `N <- x`. -/
def setN (f : Byte) (x : Bool) : Byte := withMask f 0x40 x
/-- `H <- x`. -/
def setH (f : Byte) (x : Bool) : Byte := withMask f 0x20 x
/-- `C <- x`. -/
def setC (f : Byte) (x : Bool) : Byte := withMask f 0x10 x

/-- All four flags written, bits 3:0 kept (R26). -/
def setZNHC (f : Byte) (z n h c : Bool) : Byte := setC (setH (setN (setZ f z) n) h) c

/-- `cond(cc)` (R97, 48_control_transfer.md R281). -/
def condHolds (cc : Cond) (f : Byte) : Bool :=
  match cc with
  | .nz => !flagZ f
  | .z => flagZ f
  | .nc => !flagC f
  | .c => flagC f

/-! ### 8-bit arithmetic and logic (43_alu8.md) -/

/-- `a + v + cin` (R180, R183): `Z` from the masked result, `N <- 0`, `H <- 0`, `C` when the temporary exceeds 255. -/
def add8 (cin : Bool) (a v f : Byte) : Byte × Byte :=
  let t : Nat := a.toNat + v.toNat + cin.toNat
  let r : Byte := BitVec.ofNat 8 t
  (r, setZNHC f (r == 0) false false (decide (t > 255)))

/-- `a - v - cin` (R186, R189): `Z` from the masked result, `N <- 1`, `H <- 0`, `C` when the temporary is negative. -/
def sub8 (cin : Bool) (a v f : Byte) : Byte × Byte :=
  let t : Int := (a.toNat : Int) - v.toNat - cin.toNat
  let r : Byte := BitVec.ofInt 8 t
  (r, setZNHC f (r == 0) true false (decide (t < 0)))

/-- The operation `ADD` (R180). -/
def aluAdd (a v f : Byte) : Byte × Byte := add8 false a v f
/-- The operation `ADC`: the carry flag is added (R183). -/
def aluAdc (a v f : Byte) : Byte × Byte := add8 (flagC f) a v f
/-- The operation `SUB` (R186). -/
def aluSub (a v f : Byte) : Byte × Byte := sub8 false a v f
/-- The operation `SBC`: the carry flag is subtracted (R189). -/
def aluSbc (a v f : Byte) : Byte × Byte := sub8 (flagC f) a v f

/-- The flags of `AND`, `XOR`, `OR`: `Z` from the result, the other three 0 (R192, R195, R198). -/
def logicFlags (f r : Byte) : Byte := setZNHC f (r == 0) false false false

/-- The operation `AND` (R192). -/
def aluAnd (a v f : Byte) : Byte × Byte := (a &&& v, logicFlags f (a &&& v))
/-- The operation `XOR` (R195). -/
def aluXor (a v f : Byte) : Byte × Byte := (a ^^^ v, logicFlags f (a ^^^ v))
/-- The operation `OR` (R198). -/
def aluOr (a v f : Byte) : Byte × Byte := (a ||| v, logicFlags f (a ||| v))
/-- The operation `CP`: the flags of a subtraction, `a` kept (R201). -/
def aluCp (a v f : Byte) : Byte × Byte := (a, (sub8 false a v f).2)

/-- An increment: `Z` from the new value, `N <- 0`, `H` and `C` kept (42_incdec.md R170, R172). -/
def inc8 (v f : Byte) : Byte × Byte := (v + 1, setN (setZ f (v + 1 == 0)) false)
/-- A decrement: `Z` from the new value, `N <- 1`, `H` and `C` kept (R171, R173). -/
def dec8 (v f : Byte) : Byte × Byte := (v - 1, setN (setZ f (v - 1 == 0)) true)

/-- The adjusted value of `DAA` before masking, and the new carry (R204). -/
def daaAdjust (a f : Byte) : Int × Bool :=
  let v : Int := a.toNat
  if flagN f then
    let v := if flagC f then v - 0x60 else v
    let v := if flagH f then v - 0x06 else v
    (v, flagC f)
  else
    let upper := flagC f || decide (a.toNat > 0x99)
    let v := if upper then v + 0x60 else v
    let v := if flagH f || decide (a.toNat % 16 > 0x09) then v + 0x06 else v
    (v, upper)

/-- `DAA`: `Z` from the result, `H <- 0`, `C` as adjusted, `N` kept (R204). The low digit tested is that of `v` after the
upper adjustment, which adds a multiple of 16 and so leaves it as it was in `a`. -/
def daa8 (a f : Byte) : Byte × Byte :=
  let r : Byte := BitVec.ofInt 8 (daaAdjust a f).1
  (r, setC (setH (setZ f (r == 0)) false) (daaAdjust a f).2)

/-- `CPL`: `N <- 1`, the others kept (R205). -/
def cpl8 (a f : Byte) : Byte × Byte := (a ^^^ 0xFF, setN f true)
/-- `SCF`: `C <- 1`, `N <- 0`, `H <- 0`, `Z` kept (R206). -/
def scfFlags (f : Byte) : Byte := setC (setH (setN f false) false) true
/-- `CCF`: `C` inverted, `N <- 0`, `H <- 0`, `Z` kept (R207). -/
def ccfFlags (f : Byte) : Byte := setC (setH (setN f false) false) (!flagC f)

/-! ### Bits, rotates and shifts (44_bit.md, 45_rotate_shift.md) -/

/-- The mask of bit `b`, bit 0 least significant (30_encoding.md R110). -/
def bitMask (b : Nat) : Byte := 1#8 <<< b

/-- The flags of `BIT`: `Z` is the complement of the tested bit, `N <- 0`, `H <- 0`, `C` kept (R220). -/
def bitFlags (b : Nat) (v f : Byte) : Byte := setH (setN (setZ f (!v.getLsbD b)) false) false
/-- `RES`: bit `b` cleared (R222). -/
def resBit (b : Nat) (v : Byte) : Byte := v &&& (0xFF ^^^ bitMask b)
/-- `SET`: bit `b` set (R224). -/
def setBit (b : Nat) (v : Byte) : Byte := v ||| bitMask b

/-- A byte whose bit 0 is a carry and whose other bits are 0. -/
def bit0 (c : Bool) : Byte := if c then 0x01 else 0
/-- A byte whose bit 7 is a carry and whose other bits are 0. -/
def bit7 (c : Bool) : Byte := if c then 0x80 else 0

/-! The eight datapath functions of R229, each (result, carry-out) of a byte and the carry flag. -/

/-- `rlc`: rotate left within the byte. -/
def rlc8 (v : Byte) (_c : Bool) : Byte × Bool := ((v <<< 1) ||| bit0 (v.getLsbD 7), v.getLsbD 7)
/-- `rrc`: rotate right within the byte. -/
def rrc8 (v : Byte) (_c : Bool) : Byte × Bool := ((v >>> 1) ||| bit7 (v.getLsbD 0), v.getLsbD 0)
/-- `rl`: rotate left through carry. -/
def rl8 (v : Byte) (c : Bool) : Byte × Bool := ((v <<< 1) ||| bit0 c, v.getLsbD 7)
/-- `rr`: rotate right through carry. -/
def rr8 (v : Byte) (c : Bool) : Byte × Bool := ((v >>> 1) ||| bit7 c, v.getLsbD 0)
/-- `sla`: shift left, bit 0 becomes 0. -/
def sla8 (v : Byte) (_c : Bool) : Byte × Bool := (v <<< 1, v.getLsbD 7)
/-- `sra`: shift right, bit 7 keeps its value. -/
def sra8 (v : Byte) (_c : Bool) : Byte × Bool := ((v >>> 1) ||| (v &&& 0x80), v.getLsbD 0)
/-- `sll`: shift left, bit 0 becomes 1. -/
def sll8 (v : Byte) (_c : Bool) : Byte × Bool := ((v <<< 1) ||| 1, v.getLsbD 7)
/-- `srl`: shift right, bit 7 becomes 0. -/
def srl8 (v : Byte) (_c : Bool) : Byte × Bool := (v >>> 1, v.getLsbD 0)

/-- The flags of a rotate or shift of the secondary table: `Z` from the result, `N <- 0`, `H <- 0`, `C` the carry-out
(R234 to R245). -/
def shiftFlags (f : Byte) (r : Byte × Bool) : Byte := setZNHC f (r.1 == 0) false false r.2
/-- The flags of an accumulator rotate: only `C` (R230 to R233). -/
def rotateAFlags (f : Byte) (r : Byte × Bool) : Byte := setC f r.2

/-! ### 16-bit arithmetic (46_arith16.md, 41_load16.md R153) -/

/-- `hl + v` with the 17-bit intermediate: only `C` is written (R260). -/
def add16 (hl v : Word) (f : Byte) : Word × Byte :=
  let t : Nat := hl.toNat + v.toNat
  (BitVec.ofNat 16 t, setC f (decide (t > 65535)))

/-- `sp + sext8(e)`: `Z`, `N`, `H` 0, `C` the unsigned carry of the low-byte addition (R153, R261). -/
def addSP (sp : Word) (e f : Byte) : Word × Byte :=
  (sp + sext8 e, setZNHC f false false false (decide ((loByte sp).toNat + e.toNat > 0xFF)))

end Sys2Proof.Machine
end

