-- ==== Sys2Proof/Machine/Ops.lean ====
section
/-! DEFINITION. The named operations the meanings share (00_scope.md R10): writing `pc`, operand fetch, the stack, the cost
counters, the fault handler, cycle accounting. -/

namespace Sys2Proof.Machine

/-- What a meaning answers. -/
abbrev Result := Host.Outcome State Fault Refusal

/-- `pc <- v`: the write and, at 0x0100, the clearing of the BIOS latch (10_state.md R31; R10). -/
def State.writePc (s : State) (v : Word) : State :=
  { s with pc := v, inbios := s.inbios && v != Config.latchAddress }

/-- `Fetch8()` (30_encoding.md R92): the byte at `pc`, then `pc <- pc + 1`. -/
def State.fetch8 (s : State) : Byte × State := (s.memRead s.pc, s.writePc (s.pc + 1))

/-- `Fetch16()` (R93): two bytes, low byte first. The second is read after the first has moved `pc`. -/
def State.fetch16 (s : State) : Word × State :=
  let (lo, s1) := s.fetch8
  let (hi, s2) := s1.fetch8
  (joinBytes hi lo, s2)

/-- `Push16(v)` (47_stack.md R270): high byte first, each write after its decrement of `sp`. -/
def State.push16 (s : State) (v : Word) : State :=
  let s1 : State := { s with sp := s.sp - 1 }
  let s2 := s1.memWrite s1.sp (hiByte v)
  let s3 : State := { s2 with sp := s2.sp - 1 }
  s3.memWrite s3.sp (loByte v)

/-- `Pop16()` (47_stack.md R271): low byte first, each read before its increment of `sp`. -/
def State.pop16 (s : State) : Word × State :=
  let lo := s.memRead s.sp
  let s1 : State := { s with sp := s.sp + 1 }
  let hi := s1.memRead s1.sp
  (joinBytes hi lo, { s1 with sp := s1.sp + 1 })

/-- `cost(n)` (70_reset_and_hazards.md R374): `m <- n; t <- 4 * n`. The numbers are the default table R375 (log entry 3). -/
def State.cost (s : State) (n : Nat) : State := { s with m := n, t := 4 * n }

/-- A relative branch: `pc <- pc + sext8(e)` (48_control_transfer.md R282). -/
def State.branch (s : State) (e : Byte) : State := s.writePc (s.pc + sext8 e)

/-- `raise Fault(prefixed, opcode, addr)`: the fault handler, the hardware's only exception entry (60_exceptions.md R331). The
record is written and `stop` set; nothing else changes, `pc` and the cost counters included. There is no return from it: only
the host's `reset()` leaves the state (R334), `State.hostReset`. -/
def State.raiseFault (s : State) (prefixed : Bool) (opcode : Byte) (addr : Word) : State :=
  { s with fault := some ⟨prefixed, opcode, addr⟩, stop := true }

/-- The Clock Accumulator takes in the cost of the instruction just run (R350). -/
def State.account (s : State) : State := { s with clockM := s.clockM + s.m, clockT := s.clockT + s.t }

/-- A `step()` while halted: no fetch, one idle machine cycle (R351). -/
def State.idle (s : State) : State := (s.cost 1).account

/-- `a, f <- op(a, v, f)`: an operation of 43_alu8.md on the accumulator. -/
def State.alu (s : State) (op : Byte → Byte → Byte → Byte × Byte) (v : Byte) : State :=
  { s with a := (op s.a v s.f).1, f := (op s.a v s.f).2 }

/-- A register replaced by a function of it and of `f`, which also gives the new `f`. -/
def State.onReg (s : State) (r : Reg8) (op : Byte → Byte → Byte × Byte) : State :=
  { s.setReg r (op (s.reg r) s.f).1 with f := (op (s.reg r) s.f).2 }

/-- A read-modify-write of the byte at `hl` with the new `f`, both from the value computed, not from a read-back
(42_incdec.md R172; 45_rotate_shift.md R235). -/
def State.onHL (s : State) (op : Byte → Byte → Byte × Byte) : State :=
  { s.memWrite s.hl (op s.atHL s.f).1 with f := (op s.atHL s.f).2 }

/-- A rotate or shift of the secondary table as a function of the byte and `f` (R229, R234 to R245). -/
def shift (op : Byte → Bool → Byte × Bool) (v f : Byte) : Byte × Byte :=
  ((op v (flagC f)).1, shiftFlags f (op v (flagC f)))

/-- An accumulator rotate: only `a` and `C` change (R230 to R233). -/
def State.rotateA (s : State) (op : Byte → Bool → Byte × Bool) : State :=
  { s with a := (op s.a (flagC s.f)).1, f := rotateAFlags s.f (op s.a (flagC s.f)) }

end Sys2Proof.Machine
end

