-- ==== Sys2Proof/Machine/Alu8.lean ====
section
/-! DEFINITION. 8-bit arithmetic and logic on the accumulator (43_alu8.md R180 to R207): each operation with a register, the byte at `hl` and an immediate. -/

namespace Sys2Proof.Machine

/-- `ADD A,r` (R180). -/
def execAddAR (r : Reg8) (s : State) : Result := .next ((s.alu aluAdd (s.reg r)).cost 1)

/-- `ADD A,(HL)` (R181). -/
def execAddAHL (s : State) : Result := .next ((s.alu aluAdd s.atHL).cost 2)

/-- `ADD A,n` (R182). -/
def execAddAN (n : Byte) (s : State) : Result := .next ((s.alu aluAdd n).cost 2)

/-- `ADC A,r` (R183). -/
def execAdcAR (r : Reg8) (s : State) : Result := .next ((s.alu aluAdc (s.reg r)).cost 1)

/-- `ADC A,(HL)` (R184). -/
def execAdcAHL (s : State) : Result := .next ((s.alu aluAdc s.atHL).cost 2)

/-- `ADC A,n` (R185). -/
def execAdcAN (n : Byte) (s : State) : Result := .next ((s.alu aluAdc n).cost 2)

/-- `SUB r` (R186). -/
def execSubR (r : Reg8) (s : State) : Result := .next ((s.alu aluSub (s.reg r)).cost 1)

/-- `SUB (HL)` (R187). -/
def execSubHL (s : State) : Result := .next ((s.alu aluSub s.atHL).cost 2)

/-- `SUB n` (R188). -/
def execSubN (n : Byte) (s : State) : Result := .next ((s.alu aluSub n).cost 2)

/-- `SBC A,r` (R189). -/
def execSbcAR (r : Reg8) (s : State) : Result := .next ((s.alu aluSbc (s.reg r)).cost 1)

/-- `SBC A,(HL)` (R190). -/
def execSbcAHL (s : State) : Result := .next ((s.alu aluSbc s.atHL).cost 2)

/-- `SBC A,n` (R191). -/
def execSbcAN (n : Byte) (s : State) : Result := .next ((s.alu aluSbc n).cost 2)

/-- `AND r` (R192). -/
def execAndR (r : Reg8) (s : State) : Result := .next ((s.alu aluAnd (s.reg r)).cost 1)

/-- `AND (HL)` (R193). -/
def execAndHL (s : State) : Result := .next ((s.alu aluAnd s.atHL).cost 2)

/-- `AND n` (R194). -/
def execAndN (n : Byte) (s : State) : Result := .next ((s.alu aluAnd n).cost 2)

/-- `XOR r` (R195). -/
def execXorR (r : Reg8) (s : State) : Result := .next ((s.alu aluXor (s.reg r)).cost 1)

/-- `XOR (HL)` (R196). -/
def execXorHL (s : State) : Result := .next ((s.alu aluXor s.atHL).cost 2)

/-- `XOR n` (R197). -/
def execXorN (n : Byte) (s : State) : Result := .next ((s.alu aluXor n).cost 2)

/-- `OR r` (R198). -/
def execOrR (r : Reg8) (s : State) : Result := .next ((s.alu aluOr (s.reg r)).cost 1)

/-- `OR (HL)` (R199). -/
def execOrHL (s : State) : Result := .next ((s.alu aluOr s.atHL).cost 2)

/-- `OR n` (R200). -/
def execOrN (n : Byte) (s : State) : Result := .next ((s.alu aluOr n).cost 2)

/-- `CP r` (R201). -/
def execCpR (r : Reg8) (s : State) : Result := .next ((s.alu aluCp (s.reg r)).cost 1)

/-- `CP (HL)` (R202). -/
def execCpHL (s : State) : Result := .next ((s.alu aluCp s.atHL).cost 2)

/-- `CP n` (R203). -/
def execCpN (n : Byte) (s : State) : Result := .next ((s.alu aluCp n).cost 2)

/-- `DAA` (R204). -/
def execDaa (s : State) : Result := .next ({ s with a := (daa8 s.a s.f).1, f := (daa8 s.a s.f).2 }.cost 1)

/-- `CPL` (R205). -/
def execCpl (s : State) : Result := .next ({ s with a := (cpl8 s.a s.f).1, f := (cpl8 s.a s.f).2 }.cost 1)

/-- `SCF` (R206). -/
def execScf (s : State) : Result := .next ({ s with f := scfFlags s.f }.cost 1)

/-- `CCF` (R207). -/
def execCcf (s : State) : Result := .next ({ s with f := ccfFlags s.f }.cost 1)

end Sys2Proof.Machine
end

