-- ==== Sys2Proof/Machine/Arith16.lean ====
section
/-! DEFINITION. 16-bit arithmetic (46_arith16.md R260, R261). -/

namespace Sys2Proof.Machine

/-- `ADD HL,rr` (R260): `Z`, `N`, `H` kept. -/
def execAddHLRr (p : RR) (s : State) : Result :=
  .next (({ s with f := (add16 s.hl (s.rr p) s.f).2 }.setHL (add16 s.hl (s.rr p) s.f).1).cost 2)

/-- `ADD SP,e` (R261). -/
def execAddSPE (e : Byte) (s : State) : Result := .next ({ s with sp := (addSP s.sp e s.f).1, f := (addSP s.sp e s.f).2 }.cost 4)

end Sys2Proof.Machine
end

