-- ==== Sys2Proof/Machine/Control.lean ====
section
/-! DEFINITION. Control transfer (48_control_transfer.md R280 to R301). The operand bytes have been fetched, so `pc` is the instruction-following address; no instruction here writes a flag (R281). -/

namespace Sys2Proof.Machine

/-- `JP nn` (R290). -/
def execJpNn (nn : Word) (s : State) : Result := .next ((s.writePc nn).cost 4)

/-- `JP cc,nn` (R291). -/
def execJpCcNn (cc : Cond) (nn : Word) (s : State) : Result :=
  if condHolds cc s.f then .next ((s.writePc nn).cost 4) else .next (s.cost 3)

/-- `JP (HL)` (R292): the target is `hl` itself; no memory is read. -/
def execJpHL (s : State) : Result := .next ((s.writePc s.hl).cost 1)

/-- `JR e` (R293). -/
def execJr (e : Byte) (s : State) : Result := .next ((s.branch e).cost 3)

/-- `JR cc,e` (R294). -/
def execJrCc (cc : Cond) (e : Byte) (s : State) : Result :=
  if condHolds cc s.f then .next ((s.branch e).cost 3) else .next (s.cost 2)

/-- `CALL nn` (R295): pushes the instruction-following address. -/
def execCallNn (nn : Word) (s : State) : Result := .next (((s.push16 s.pc).writePc nn).cost 6)

/-- `CALL cc,nn` (R296). -/
def execCallCcNn (cc : Cond) (nn : Word) (s : State) : Result :=
  if condHolds cc s.f then .next (((s.push16 s.pc).writePc nn).cost 6) else .next (s.cost 3)

/-- `RET` (R297). -/
def execRet (s : State) : Result := .next ((s.pop16.2.writePc s.pop16.1).cost 4)

/-- `RETI` (R298): `RET`, and `ime <- 1` at once. -/
def execReti (s : State) : Result := .next ({ s.pop16.2.writePc s.pop16.1 with ime := true }.cost 4)

/-- `RET cc` (R299). -/
def execRetCc (cc : Cond) (s : State) : Result :=
  if condHolds cc s.f then .next ((s.pop16.2.writePc s.pop16.1).cost 5) else .next (s.cost 2)

/-- `RST v` (R300): the target is the 8-bit `v`, above it zeros. -/
def execRst (v : Byte) (s : State) : Result := .next (((s.push16 s.pc).writePc (joinBytes 0 v)).cost 4)

/-- `DJNZ e` (R301): `b` is decremented, no flag written, and the branch taken while `b` is not 0. -/
def execDjnz (e : Byte) (s : State) : Result :=
  if s.b - 1 = 0 then .next ({ s with b := s.b - 1 }.cost 2) else .next (({ s with b := s.b - 1 }.branch e).cost 3)

end Sys2Proof.Machine
end

