-- ==== Sys2Proof/Machine/IncDec.lean ====
section
/-! DEFINITION. Increment and decrement (42_incdec.md R170 to R175). `H` and `C` are never written; the 16-bit forms write no flag. -/

namespace Sys2Proof.Machine

/-- `INC r` (R170). -/
def execIncR (r : Reg8) (s : State) : Result := .next ((s.onReg r inc8).cost 1)

/-- `DEC r` (R171). -/
def execDecR (r : Reg8) (s : State) : Result := .next ((s.onReg r dec8).cost 1)

/-- `INC (HL)` (R172): flags from the value computed. -/
def execIncHL (s : State) : Result := .next ((s.onHL inc8).cost 3)

/-- `DEC (HL)` (R173). -/
def execDecHL (s : State) : Result := .next ((s.onHL dec8).cost 3)

/-- `INC rr` (R174): modulo 65536. -/
def execIncRr (p : RR) (s : State) : Result := .next ((s.setRR p (s.rr p + 1)).cost 2)

/-- `DEC rr` (R175): modulo 65536. -/
def execDecRr (p : RR) (s : State) : Result := .next ((s.setRR p (s.rr p - 1)).cost 2)

end Sys2Proof.Machine
end

