-- ==== Sys2Proof/Machine/Load16.lean ====
section
/-! DEFINITION. The 16-bit loads (41_load16.md R150 to R153). -/

namespace Sys2Proof.Machine

/-- `LD rr,nn` (R150). -/
def execLdRrNn (p : RR) (nn : Word) (s : State) : Result := .next ((s.setRR p nn).cost 3)

/-- `LD (nn),SP` (R151): the only user of the word write. -/
def execLdNnSP (nn : Word) (s : State) : Result := .next ((s.memWriteWord nn s.sp).cost 5)

/-- `LD SP,HL` (R152). -/
def execLdSPHL (s : State) : Result := .next ({ s with sp := s.hl }.cost 2)

/-- `LD HL,SP+e` (R153): `sp` is kept. -/
def execLdHLSPE (e : Byte) (s : State) : Result :=
  .next (({ s with f := (addSP s.sp e s.f).2 }.setHL (addSP s.sp e s.f).1).cost 3)

end Sys2Proof.Machine
end

