-- ==== Sys2Proof/Machine/Load8.lean ====
section
/-! DEFINITION. The 8-bit loads (40_load8.md R120 to R139). None writes `f` (R120). Operand bytes have been fetched: `pc` is past the instruction. -/

namespace Sys2Proof.Machine

/-- `LD r,r'` (R121): `r[y] <- r[z]`. -/
def execLdRR (rd rs : Reg8) (s : State) : Result := .next ((s.setReg rd (s.reg rs)).cost 1)

/-- `LD r,(HL)` (R122): the address is formed before the register is written. -/
def execLdRHL (r : Reg8) (s : State) : Result := .next ((s.setReg r s.atHL).cost 2)

/-- `LD (HL),r` (R123). -/
def execLdHLR (r : Reg8) (s : State) : Result := .next ((s.memWrite s.hl (s.reg r)).cost 2)

/-- `LD r,n` (R124). -/
def execLdRN (r : Reg8) (n : Byte) (s : State) : Result := .next ((s.setReg r n).cost 2)

/-- `LD (HL),n` (R125). -/
def execLdHLN (n : Byte) (s : State) : Result := .next ((s.memWrite s.hl n).cost 3)

/-- `LD A,(BC)` (R126). -/
def execLdABC (s : State) : Result := .next ((s.setReg .a (s.memRead s.bc)).cost 2)

/-- `LD A,(DE)` (R127). -/
def execLdADE (s : State) : Result := .next ((s.setReg .a (s.memRead s.de)).cost 2)

/-- `LD (BC),A` (R128). -/
def execLdBCA (s : State) : Result := .next ((s.memWrite s.bc s.a).cost 2)

/-- `LD (DE),A` (R129). -/
def execLdDEA (s : State) : Result := .next ((s.memWrite s.de s.a).cost 2)

/-- `LDI (HL),A` (R130): the pair is modified after the access. -/
def execLdiHLA (s : State) : Result := .next (((s.memWrite s.hl s.a).setHL (s.hl + 1)).cost 2)

/-- `LDI A,(HL)` (R131). -/
def execLdiAHL (s : State) : Result := .next (((s.setReg .a s.atHL).setHL (s.hl + 1)).cost 2)

/-- `LDD (HL),A` (R132). -/
def execLddHLA (s : State) : Result := .next (((s.memWrite s.hl s.a).setHL (s.hl - 1)).cost 2)

/-- `LDD A,(HL)` (R133). -/
def execLddAHL (s : State) : Result := .next (((s.setReg .a s.atHL).setHL (s.hl - 1)).cost 2)

/-- `LDH (n),A` (R134): the address is `0xFF00 + n`. -/
def execLdhNA (n : Byte) (s : State) : Result := .next ((s.memWrite (highPage n) s.a).cost 3)

/-- `LDH A,(n)` (R135). -/
def execLdhAN (n : Byte) (s : State) : Result := .next ((s.setReg .a (s.memRead (highPage n))).cost 3)

/-- `LD (C),A` (R136): the address is `0xFF00 + c`. -/
def execLdCA (s : State) : Result := .next ((s.memWrite (highPage s.c) s.a).cost 2)

/-- `LD A,(C)` (R137). -/
def execLdAC (s : State) : Result := .next ((s.setReg .a (s.memRead (highPage s.c))).cost 2)

/-- `LD (nn),A` (R138). -/
def execLdNnA (nn : Word) (s : State) : Result := .next ((s.memWrite nn s.a).cost 4)

/-- `LD A,(nn)` (R139): the read sees the latch as the operand fetch left it. -/
def execLdANn (nn : Word) (s : State) : Result := .next ((s.setReg .a (s.memRead nn)).cost 4)

end Sys2Proof.Machine
end

