-- ==== Sys2Proof/Machine/Bits.lean ====
section
/-! DEFINITION. Bit test, reset and set (44_bit.md R220 to R225). The cost is that of the whole two-byte instruction. -/

namespace Sys2Proof.Machine

/-- `BIT b,r` (R220): only `f` is written. -/
def execBitR (b : Nat) (r : Reg8) (s : State) : Result := .next ({ s with f := bitFlags b (s.reg r) s.f }.cost 2)

/-- `BIT b,(HL)` (R221): no memory write. -/
def execBitHL (b : Nat) (s : State) : Result := .next ({ s with f := bitFlags b s.atHL s.f }.cost 3)

/-- `RES b,r` (R222). -/
def execResR (b : Nat) (r : Reg8) (s : State) : Result := .next ((s.setReg r (resBit b (s.reg r))).cost 2)

/-- `RES b,(HL)` (R223): one read, then one write of the same address. -/
def execResHL (b : Nat) (s : State) : Result := .next ((s.memWrite s.hl (resBit b s.atHL)).cost 4)

/-- `SET b,r` (R224). -/
def execSetR (b : Nat) (r : Reg8) (s : State) : Result := .next ((s.setReg r (setBit b (s.reg r))).cost 2)

/-- `SET b,(HL)` (R225). -/
def execSetHL (b : Nat) (s : State) : Result := .next ((s.memWrite s.hl (setBit b s.atHL)).cost 4)

end Sys2Proof.Machine
end

