-- ==== Sys2Proof/Machine/Meta.lean ====
section
/-! DEFINITION. Control and meta instructions and the unassigned slots (49_control_meta.md R310 to R316). The address a fault records is the one its byte was fetched from, `pc - 1` modulo 65536 when the handler runs (60_exceptions.md R330; log entry 5). -/

namespace Sys2Proof.Machine

/-- `NOP` (R310): cost only. -/
def execNop (s : State) : Result := .next (s.cost 1)

/-- `HALT` (R311). -/
def execHalt (s : State) : Result := .next ({ s with halt := true }.cost 1)

/-- `DI` (R312): at once. -/
def execDi (s : State) : Result := .next ({ s with ime := false }.cost 1)

/-- `EI` (R313): at once, no delay. -/
def execEi (s : State) : Result := .next ({ s with ime := true }.cost 1)

/-- Unassigned primary slot `0xD3` (R315): Fault cause 0 at the address of the opcode byte, `pc - 1`. -/
def execUnassignedD3 (s : State) : Result := .next (s.raiseFault false 0xD3 (s.pc - 1))

/-- Unassigned primary slot `0xDB` (R315): Fault cause 0 at the address of the opcode byte, `pc - 1`. -/
def execUnassignedDB (s : State) : Result := .next (s.raiseFault false 0xDB (s.pc - 1))

/-- Unassigned primary slot `0xDD` (R315): Fault cause 0 at the address of the opcode byte, `pc - 1`. -/
def execUnassignedDD (s : State) : Result := .next (s.raiseFault false 0xDD (s.pc - 1))

/-- Unassigned primary slot `0xE3` (R315): Fault cause 0 at the address of the opcode byte, `pc - 1`. -/
def execUnassignedE3 (s : State) : Result := .next (s.raiseFault false 0xE3 (s.pc - 1))

/-- Unassigned primary slot `0xE4` (R315): Fault cause 0 at the address of the opcode byte, `pc - 1`. -/
def execUnassignedE4 (s : State) : Result := .next (s.raiseFault false 0xE4 (s.pc - 1))

/-- Unassigned primary slot `0xEB` (R315): Fault cause 0 at the address of the opcode byte, `pc - 1`. -/
def execUnassignedEB (s : State) : Result := .next (s.raiseFault false 0xEB (s.pc - 1))

/-- Unassigned primary slot `0xEC` (R315): Fault cause 0 at the address of the opcode byte, `pc - 1`. -/
def execUnassignedEC (s : State) : Result := .next (s.raiseFault false 0xEC (s.pc - 1))

/-- Unassigned primary slot `0xED` (R315): Fault cause 0 at the address of the opcode byte, `pc - 1`. -/
def execUnassignedED (s : State) : Result := .next (s.raiseFault false 0xED (s.pc - 1))

/-- Unassigned primary slot `0xF4` (R315): Fault cause 0 at the address of the opcode byte, `pc - 1`. -/
def execUnassignedF4 (s : State) : Result := .next (s.raiseFault false 0xF4 (s.pc - 1))

/-- Unassigned primary slot `0xFC` (R315): Fault cause 0 at the address of the opcode byte, `pc - 1`. -/
def execUnassignedFC (s : State) : Result := .next (s.raiseFault false 0xFC (s.pc - 1))

/-- Unassigned primary slot `0xFD` (R315): Fault cause 0 at the address of the opcode byte, `pc - 1`. -/
def execUnassignedFD (s : State) : Result := .next (s.raiseFault false 0xFD (s.pc - 1))

/-- Unassigned secondary slot `0xCB 0x26` (R316): Fault cause 1 at the address of the secondary byte, `pc - 1`. -/
def execUnassignedCB26 (s : State) : Result := .next (s.raiseFault true 0x26 (s.pc - 1))

/-- Unassigned secondary slot `0xCB 0x2E` (R316): Fault cause 1 at the address of the secondary byte, `pc - 1`. -/
def execUnassignedCB2E (s : State) : Result := .next (s.raiseFault true 0x2E (s.pc - 1))

/-- Unassigned secondary slot `0xCB 0x36` (R316): Fault cause 1 at the address of the secondary byte, `pc - 1`. -/
def execUnassignedCB36 (s : State) : Result := .next (s.raiseFault true 0x36 (s.pc - 1))

/-- Unassigned secondary slot `0xCB 0x3E` (R316): Fault cause 1 at the address of the secondary byte, `pc - 1`. -/
def execUnassignedCB3E (s : State) : Result := .next (s.raiseFault true 0x3E (s.pc - 1))

end Sys2Proof.Machine
end

