-- ==== Sys2Proof/Machine/Rotate.lean ====
section
/-! DEFINITION. Rotates and shifts (45_rotate_shift.md R229 to R245). The four shifts have register forms only. -/

namespace Sys2Proof.Machine

/-- `RLCA` (R230): only `C` of the flags. -/
def execRlca (s : State) : Result := .next ((s.rotateA rlc8).cost 1)

/-- `RLA` (R231): only `C` of the flags. -/
def execRla (s : State) : Result := .next ((s.rotateA rl8).cost 1)

/-- `RRCA` (R232): only `C` of the flags. -/
def execRrca (s : State) : Result := .next ((s.rotateA rrc8).cost 1)

/-- `RRA` (R233): only `C` of the flags. -/
def execRra (s : State) : Result := .next ((s.rotateA rr8).cost 1)

/-- `RLC r` (R234). -/
def execRlcR (r : Reg8) (s : State) : Result := .next ((s.onReg r (shift rlc8)).cost 2)

/-- `RLC (HL)` (R235). -/
def execRlcHL (s : State) : Result := .next ((s.onHL (shift rlc8)).cost 4)

/-- `RRC r` (R236). -/
def execRrcR (r : Reg8) (s : State) : Result := .next ((s.onReg r (shift rrc8)).cost 2)

/-- `RRC (HL)` (R237). -/
def execRrcHL (s : State) : Result := .next ((s.onHL (shift rrc8)).cost 4)

/-- `RL r` (R238). -/
def execRlR (r : Reg8) (s : State) : Result := .next ((s.onReg r (shift rl8)).cost 2)

/-- `RL (HL)` (R239). -/
def execRlHL (s : State) : Result := .next ((s.onHL (shift rl8)).cost 4)

/-- `RR r` (R240). -/
def execRrR (r : Reg8) (s : State) : Result := .next ((s.onReg r (shift rr8)).cost 2)

/-- `RR (HL)` (R241). -/
def execRrHL (s : State) : Result := .next ((s.onHL (shift rr8)).cost 4)

/-- `SLA r` (R242). -/
def execSlaR (r : Reg8) (s : State) : Result := .next ((s.onReg r (shift sla8)).cost 2)

/-- `SRA r` (R243). -/
def execSraR (r : Reg8) (s : State) : Result := .next ((s.onReg r (shift sra8)).cost 2)

/-- `SLL r` (R244). -/
def execSllR (r : Reg8) (s : State) : Result := .next ((s.onReg r (shift sll8)).cost 2)

/-- `SRL r` (R245). -/
def execSrlR (r : Reg8) (s : State) : Result := .next ((s.onReg r (shift srl8)).cost 2)

end Sys2Proof.Machine
end

