-- ==== Sys2Proof/Machine/Prefix.lean ====
section
/-! DEFINITION. The `0xCB` prefix: the secondary dispatch (49_control_meta.md R314). -/

namespace Sys2Proof.Machine

/-- The inner handler of a row of the secondary table (R314, 30_encoding.md R102). -/
def execSecondary (row : Secondary) (s : State) : Result :=
  match row with
  | .rlcR r => execRlcR r s
  | .rlcHL => execRlcHL s
  | .rrcR r => execRrcR r s
  | .rrcHL => execRrcHL s
  | .rlR r => execRlR r s
  | .rlHL => execRlHL s
  | .rrR r => execRrR r s
  | .rrHL => execRrHL s
  | .slaR r => execSlaR r s
  | .unassigned26 => execUnassignedCB26 s
  | .sraR r => execSraR r s
  | .unassigned2E => execUnassignedCB2E s
  | .sllR r => execSllR r s
  | .unassigned36 => execUnassignedCB36 s
  | .srlR r => execSrlR r s
  | .unassigned3E => execUnassignedCB3E s
  | .bitR b r => execBitR b r s
  | .bitHL b => execBitHL b s
  | .resR b r => execResR b r s
  | .resHL b => execResHL b s
  | .setR b r => execSetR b r s
  | .setHL b => execSetHL b s

/-- The `0xCB` prefix (R314): the secondary byte is fetched through the decoder like any operand, `pc` moved past it, and its
row executed, all in the one instruction. The cost is the inner instruction's. -/
def execCbPrefix (s : State) : Result := execSecondary (secondaryRow s.fetch8.1) s.fetch8.2

end Sys2Proof.Machine
end

