-- ==== Sys2Proof/Machine/Stack.lean ====
section
/-! DEFINITION. PUSH and POP (47_stack.md R272 to R274). -/

namespace Sys2Proof.Machine

/-- `PUSH qq` (R272). -/
def execPushQq (q : QQ) (s : State) : Result := .next ((s.push16 (s.qq q)).cost 4)

/-- `POP rr` (R273). -/
def execPopRr (q : QQ) (s : State) : Result := .next ((s.pop16.2.setQQ q s.pop16.1).cost 3)

/-- `POP AF` (R274): all eight bits of `f` come from memory. -/
def execPopAF (s : State) : Result := .next ((s.pop16.2.setAF s.pop16.1).cost 3)

end Sys2Proof.Machine
end

