-- ==== Sys2Proof/Machine/Dispatch.lean ====
section
/-! DEFINITION. The dispatcher: one arm per instruction, each one call of its meaning (49_control_meta.md, 30_encoding.md R90). -/

namespace Sys2Proof.Machine

def exec (i : Instr) (s : State) : Host.Outcome State Fault Refusal :=
  match i with
  | .nop => Sys2Proof.Machine.execNop s
  | .ldRrNn p nn => Sys2Proof.Machine.execLdRrNn p nn s
  | .ldBCA => Sys2Proof.Machine.execLdBCA s
  | .incRr p => Sys2Proof.Machine.execIncRr p s
  | .incR r => Sys2Proof.Machine.execIncR r s
  | .decR r => Sys2Proof.Machine.execDecR r s
  | .ldRN r n => Sys2Proof.Machine.execLdRN r n s
  | .rlca => Sys2Proof.Machine.execRlca s
  | .ldNnSP nn => Sys2Proof.Machine.execLdNnSP nn s
  | .addHLRr p => Sys2Proof.Machine.execAddHLRr p s
  | .ldABC => Sys2Proof.Machine.execLdABC s
  | .decRr p => Sys2Proof.Machine.execDecRr p s
  | .rrca => Sys2Proof.Machine.execRrca s
  | .djnz e => Sys2Proof.Machine.execDjnz e s
  | .ldDEA => Sys2Proof.Machine.execLdDEA s
  | .rla => Sys2Proof.Machine.execRla s
  | .jr e => Sys2Proof.Machine.execJr e s
  | .ldADE => Sys2Proof.Machine.execLdADE s
  | .rra => Sys2Proof.Machine.execRra s
  | .jrCc cc e => Sys2Proof.Machine.execJrCc cc e s
  | .ldiHLA => Sys2Proof.Machine.execLdiHLA s
  | .daa => Sys2Proof.Machine.execDaa s
  | .ldiAHL => Sys2Proof.Machine.execLdiAHL s
  | .cpl => Sys2Proof.Machine.execCpl s
  | .lddHLA => Sys2Proof.Machine.execLddHLA s
  | .incHL => Sys2Proof.Machine.execIncHL s
  | .decHL => Sys2Proof.Machine.execDecHL s
  | .ldHLN n => Sys2Proof.Machine.execLdHLN n s
  | .scf => Sys2Proof.Machine.execScf s
  | .lddAHL => Sys2Proof.Machine.execLddAHL s
  | .ccf => Sys2Proof.Machine.execCcf s
  | .ldRR rd rs => Sys2Proof.Machine.execLdRR rd rs s
  | .ldRHL r => Sys2Proof.Machine.execLdRHL r s
  | .ldHLR r => Sys2Proof.Machine.execLdHLR r s
  | .halt => Sys2Proof.Machine.execHalt s
  | .addAR r => Sys2Proof.Machine.execAddAR r s
  | .addAHL => Sys2Proof.Machine.execAddAHL s
  | .adcAR r => Sys2Proof.Machine.execAdcAR r s
  | .adcAHL => Sys2Proof.Machine.execAdcAHL s
  | .subR r => Sys2Proof.Machine.execSubR r s
  | .subHL => Sys2Proof.Machine.execSubHL s
  | .sbcAR r => Sys2Proof.Machine.execSbcAR r s
  | .sbcAHL => Sys2Proof.Machine.execSbcAHL s
  | .andR r => Sys2Proof.Machine.execAndR r s
  | .andHL => Sys2Proof.Machine.execAndHL s
  | .xorR r => Sys2Proof.Machine.execXorR r s
  | .xorHL => Sys2Proof.Machine.execXorHL s
  | .orR r => Sys2Proof.Machine.execOrR r s
  | .orHL => Sys2Proof.Machine.execOrHL s
  | .cpR r => Sys2Proof.Machine.execCpR r s
  | .cpHL => Sys2Proof.Machine.execCpHL s
  | .retCc cc => Sys2Proof.Machine.execRetCc cc s
  | .popRr q => Sys2Proof.Machine.execPopRr q s
  | .jpCcNn cc nn => Sys2Proof.Machine.execJpCcNn cc nn s
  | .jpNn nn => Sys2Proof.Machine.execJpNn nn s
  | .callCcNn cc nn => Sys2Proof.Machine.execCallCcNn cc nn s
  | .pushQq q => Sys2Proof.Machine.execPushQq q s
  | .addAN n => Sys2Proof.Machine.execAddAN n s
  | .rst v => Sys2Proof.Machine.execRst v s
  | .ret => Sys2Proof.Machine.execRet s
  | .cbPrefix => Sys2Proof.Machine.execCbPrefix s
  | .callNn nn => Sys2Proof.Machine.execCallNn nn s
  | .adcAN n => Sys2Proof.Machine.execAdcAN n s
  | .unassignedD3 => Sys2Proof.Machine.execUnassignedD3 s
  | .subN n => Sys2Proof.Machine.execSubN n s
  | .reti => Sys2Proof.Machine.execReti s
  | .unassignedDB => Sys2Proof.Machine.execUnassignedDB s
  | .unassignedDD => Sys2Proof.Machine.execUnassignedDD s
  | .sbcAN n => Sys2Proof.Machine.execSbcAN n s
  | .ldhNA n => Sys2Proof.Machine.execLdhNA n s
  | .ldCA => Sys2Proof.Machine.execLdCA s
  | .unassignedE3 => Sys2Proof.Machine.execUnassignedE3 s
  | .unassignedE4 => Sys2Proof.Machine.execUnassignedE4 s
  | .andN n => Sys2Proof.Machine.execAndN n s
  | .addSPE e => Sys2Proof.Machine.execAddSPE e s
  | .jpHL => Sys2Proof.Machine.execJpHL s
  | .ldNnA nn => Sys2Proof.Machine.execLdNnA nn s
  | .unassignedEB => Sys2Proof.Machine.execUnassignedEB s
  | .unassignedEC => Sys2Proof.Machine.execUnassignedEC s
  | .unassignedED => Sys2Proof.Machine.execUnassignedED s
  | .xorN n => Sys2Proof.Machine.execXorN n s
  | .ldhAN n => Sys2Proof.Machine.execLdhAN n s
  | .popAF => Sys2Proof.Machine.execPopAF s
  | .ldAC => Sys2Proof.Machine.execLdAC s
  | .di => Sys2Proof.Machine.execDi s
  | .unassignedF4 => Sys2Proof.Machine.execUnassignedF4 s
  | .orN n => Sys2Proof.Machine.execOrN n s
  | .ldHLSPE e => Sys2Proof.Machine.execLdHLSPE e s
  | .ldSPHL => Sys2Proof.Machine.execLdSPHL s
  | .ldANn nn => Sys2Proof.Machine.execLdANn nn s
  | .ei => Sys2Proof.Machine.execEi s
  | .unassignedFC => Sys2Proof.Machine.execUnassignedFC s
  | .unassignedFD => Sys2Proof.Machine.execUnassignedFD s
  | .cpN n => Sys2Proof.Machine.execCpN n s
  | .rlcR r => Sys2Proof.Machine.execRlcR r s
  | .rlcHL => Sys2Proof.Machine.execRlcHL s
  | .rrcR r => Sys2Proof.Machine.execRrcR r s
  | .rrcHL => Sys2Proof.Machine.execRrcHL s
  | .rlR r => Sys2Proof.Machine.execRlR r s
  | .rlHL => Sys2Proof.Machine.execRlHL s
  | .rrR r => Sys2Proof.Machine.execRrR r s
  | .rrHL => Sys2Proof.Machine.execRrHL s
  | .slaR r => Sys2Proof.Machine.execSlaR r s
  | .unassignedCB26 => Sys2Proof.Machine.execUnassignedCB26 s
  | .sraR r => Sys2Proof.Machine.execSraR r s
  | .unassignedCB2E => Sys2Proof.Machine.execUnassignedCB2E s
  | .sllR r => Sys2Proof.Machine.execSllR r s
  | .unassignedCB36 => Sys2Proof.Machine.execUnassignedCB36 s
  | .srlR r => Sys2Proof.Machine.execSrlR r s
  | .unassignedCB3E => Sys2Proof.Machine.execUnassignedCB3E s
  | .bitR b r => Sys2Proof.Machine.execBitR b r s
  | .bitHL b => Sys2Proof.Machine.execBitHL b s
  | .resR b r => Sys2Proof.Machine.execResR b r s
  | .resHL b => Sys2Proof.Machine.execResHL b s
  | .setR b r => Sys2Proof.Machine.execSetR b r s
  | .setHL b => Sys2Proof.Machine.execSetHL b s

end Sys2Proof.Machine
end

