-- ==== Sys2Proof/Machine/Fetch.lean ====
section
/-! DEFINITION. Fetching an instruction (60_exceptions.md R350, 30_encoding.md R92, R93, R105), and placing one where the next
fetch reads it (the host's `withFetchWord`). -/

namespace Sys2Proof.Machine

/-- The opcode byte and the operand bytes of its row, each read through the decoder at `pc` when it is needed, `pc` moved past
it and the BIOS latch sampled (R31, R92). No handler does anything before its operands are fetched, so fetching them here is
the handler's own order (log entry 4). The secondary byte of `0xCB` is fetched by the prefix's handler (R314). -/
def State.fetchInstr (s : State) : Instr × State :=
  let (op, s1) := s.fetch8
  match primaryRow op with
  | .op i => (i, s1)
  | .cb => (.cbPrefix, s1)
  | .opN k => (k s1.fetch8.1, s1.fetch8.2)
  | .opNN k => (k s1.fetch16.1, s1.fetch16.2)

/-- Whether the address has a cell behind it, writable or not. -/
def Loc.stored : Loc → Bool
  | .cell _ _ => true
  | .absent => false

/-- Whether the three bytes from an address on all have cells. -/
def State.canHold (s : State) (addr : Word) : Bool :=
  (locate s.inbios addr).stored && (locate s.inbios (addr + 1)).stored && (locate s.inbios (addr + 2)).stored

/-- Bytes put in the cells a fetch from an address on reads, in BIOS and ROM too: what the host does when it loads. -/
def State.placeBytes (s : State) (addr : Word) : List Byte → State
  | [] => s
  | v :: rest => (s.poke (locate s.inbios addr) v).placeBytes (addr + 1) rest

/-- The state in which the next `step()` fetches the given bytes: they stand at `pc`, or, where the three bytes at `pc` have
no storage (I/O range, OAM tail), at 0xC000 with `pc` there; and the machine is neither halted nor stopped. -/
def State.withFetchBytes (s : State) (bytes : List Byte) : State :=
  let ready : State := { s with halt := false, stop := false, fault := none }
  let at' : State := if s.canHold s.pc then ready else { ready with pc := 0xC000 }
  at'.placeBytes at'.pc bytes

end Sys2Proof.Machine
end

