-- ==== Sys2Proof/Machine/Step.lean ====
section
/-! DEFINITION. `step()`, the unit of execution (60_exceptions.md R350), and the status it returns (decision D31). -/

namespace Sys2Proof.Machine

/-- `step()` (R350). Stopped: nothing changes (R333). Halted: one idle machine cycle (R351). Otherwise one whole instruction is
fetched and run, and its cost goes into the Clock Accumulator, unless its handler raised the fault: `stop` was 0 before it and
only the fault handler sets it. -/
def step (s : State) : Host.Outcome State Fault Refusal :=
  if s.stop then .next s
  else if s.halt then .next s.idle
  else
    match exec s.fetchInstr.1 s.fetchInstr.2 with
    | .next s' => if s'.stop then .next s' else .next s'.account
    | .fault r => .fault r
    | .refused r => .refused r

/-- What `step()` returns (R350, D31). Host.Outcome has no place for it, so it is read beside the step (log entry 5). -/
inductive Status where
  | ok | halted | fault | stopped
  deriving DecidableEq, Repr

/-- The status the call `step()` from this state returns: `stop` is tested first, then `halt` (R332, R350). -/
def stepStatus (s : State) : Status :=
  if s.stop then .stopped
  else if s.halt then .halted
  else
    match step s with
    | .next s' => if s'.stop then .fault else .ok
    | .fault _ => .fault
    | .refused _ => .fault

/-- The host's placing of one opcode-table word where `step` fetches next. Log entry 7. -/
def State.withFetchWord (s : State) (nbits w : Nat) : State := s.withFetchBytes (tableBytes nbits w)

end Sys2Proof.Machine
end

