-- ==== Sys2Proof/Machine/HostOps.lean ====
section
/-! DEFINITION. The host operations other than `step()`: `reset()` and `loadRom(bytes)` (70_reset_and_hazards.md R361, R366).
Inspection (R367) is reading the fields of State or `State.memRead`. They act between two steps and no instruction causes one
(R362); the host writes nothing else. -/

namespace Sys2Proof.Machine

/-- `reset()` (R361): every register, flag, counter and the fault record as at power-on, the latch set; no memory array is
touched. `pc` is written directly: not a sampled write (R31). -/
def State.hostReset (s : State) : State :=
  { State.reset with
    bios := s.bios, rom := s.rom, vram := s.vram, eram := s.eram, wram := s.wram, oam := s.oam, zram := s.zram }

/-- `loadRom(bytes)` (R366): bytes beyond the array are ignored, a shorter sequence is padded with zeros; nothing else
changes. -/
def State.loadRom (s : State) (bytes : List Byte) : State :=
  { s with rom := Memory.ofBytesFrom 0 (bytes.take Config.romSize) }

/-- The BIOS parameter set (00_scope.md R8): the machine with the given boot bytes, zeros beyond them. It stands for building
the machine with that argument, not for an operation of the hardware. -/
def State.withBios (s : State) (bytes : List Byte) : State :=
  { s with bios := Memory.ofBytesFrom 0 (bytes.take Config.biosSize) }

end Sys2Proof.Machine
end

