-- ==== Sys2Proof/Safety.lean ====
section
/-! DEFINITION. What holds in every reachable state (10_state.md R40), and what the end of a run is (60_exceptions.md R352). -/

namespace Sys2Proof.Machine

/-- Every memory array has its canonical form within its size (R37, R40). -/
def State.memWf (s : State) : Bool :=
  s.bios.wf Config.biosSize && s.rom.wf Config.romSize && s.vram.wf Config.vramSize && s.eram.wf Config.eramSize
    && s.wram.wf Config.wramSize && s.oam.wf Config.oamSize && s.zram.wf Config.zramSize

/-- The invariants of R40 that the types do not already say: the arrays, `t = 4 * m`, `clock.t = 4 * clock.m`, `stop = 1`
exactly when `fault` is not empty; and `halt` and `stop` are never both 1 (60_exceptions.md R332). -/
structure State.Inv (s : State) : Prop where
  memory : s.memWf = true
  cost : s.t = 4 * s.m
  clock : s.clockT = 4 * s.clockM
  faultIffStop : s.fault.isSome = s.stop
  notBoth : ¬ (s.halt = true ∧ s.stop = true)

/-- A run has ended (R352). -/
def State.ended (s : State) : Bool := s.halt || s.stop

end Sys2Proof.Machine
end

