-- ==== Sys2Proof/Certificates/Slice0/Obligations.lean ====
section
/-! DEFINITION. The statements about the machine, one per rule or group of rules of spec/ (OBLIGATIONS.json says which). What an
instruction rule says is said of `exec` at the state its operands were fetched into (00_scope.md R11), in plain numbers and
with this file's own readings of the notation, not with the model's functions. -/

namespace Sys2Proof.Claim

open Sys2Proof.Machine

/-! ### The notation of 00_scope.md R9 and R10 -/

/-- `hi:lo` (R9). -/
def pair (hi lo : Byte) : Word := BitVec.ofNat 16 (256 * hi.toNat + lo.toNat)

/-- `v[7:0]` (R9). -/
def low (v : Word) : Byte := BitVec.ofNat 8 v.toNat

/-- `v[15:8]` (R9). -/
def high (v : Word) : Byte := BitVec.ofNat 8 (v.toNat / 256)

/-- `(v + k) & 0xFFFF`; minus one is plus 65535 and minus two plus 65534. -/
def plus (v : Word) (k : Nat) : Word := BitVec.ofNat 16 (v.toNat + k)

/-- The amount that adds `sext8(e)` modulo 65536: `e` below 128, `e - 256` from there on (30_encoding.md R108). -/
def sext (e : Byte) : Nat := if e.toNat < 128 then e.toNat else 65536 + e.toNat - 256

/-- The register codes of 30_encoding.md R95. -/
def code : Reg8 → Nat
  | .b => 0
  | .c => 1
  | .d => 2
  | .e => 3
  | .h => 4
  | .l => 5
  | .a => 7

/-- The pair codes `rr[p]` of R96. -/
def pairCode : RR → Nat
  | .bc => 0
  | .de => 1
  | .hl => 2
  | .sp => 3

/-- The pair codes `qq[p]` of R96. -/
def stackCode : QQ → Nat
  | .bc => 0
  | .de => 1
  | .hl => 2
  | .af => 3

/-- The condition codes of R97. -/
def condCode : Cond → Nat
  | .nz => 0
  | .z => 1
  | .nc => 2
  | .c => 3

/-- The byte `xx yyy zzz` (R94). -/
def opcode (x y z : Nat) : Byte := BitVec.ofNat 8 (64 * x + 8 * y + z)

/-- The bytes are the instruction, whatever follows them. -/
def decodes (bytes : List Byte) (i : Instr) : Prop := ∀ rest, decode (bytes ++ rest) = .ok (i, rest)

/-- `rr[p]` (10_state.md R22). -/
def pairValue (s : State) : RR → Word
  | .bc => pair s.b s.c
  | .de => pair s.d s.e
  | .hl => pair s.h s.l
  | .sp => s.sp

/-- `qq[p]` (10_state.md R22, R23). -/
def stackValue (s : State) : QQ → Word
  | .bc => pair s.b s.c
  | .de => pair s.d s.e
  | .hl => pair s.h s.l
  | .af => pair s.a s.f

/-- The registers `rr[p]` is made of; `sp` is none of the seven. -/
def pairRegs : RR → List Reg8
  | .bc => [.b, .c]
  | .de => [.d, .e]
  | .hl => [.h, .l]
  | .sp => []

/-- The byte at `hl`. -/
def atHL (s : State) : Byte := s.memRead (pair s.h s.l)

/-- The `C` flag as a number (10_state.md R25). -/
def carry (s : State) : Nat := if s.f.getLsbD 4 then 1 else 0

/-- `cond(cc)`: `NZ` is `Z = 0`, `Z` is `Z = 1`, `NC` is `C = 0`, `C` is `C = 1` (48_control_transfer.md R281). -/
def holds (s : State) : Cond → Prop
  | .nz => s.f.getLsbD 7 = false
  | .z => s.f.getLsbD 7 = true
  | .nc => s.f.getLsbD 4 = false
  | .c => s.f.getLsbD 4 = true

/-! ### Frames -/

/-- Each of `a b c d e h l` but those listed is unchanged. -/
def sameRegs (s t : State) (but : List Reg8) : Prop := ∀ r, r ∉ but → t.reg r = s.reg r

/-- `pc` and the BIOS latch are unchanged. -/
def samePc (s t : State) : Prop := t.pc = s.pc ∧ t.inbios = s.inbios

/-- `halt`, `stop`, the fault record and the Clock Accumulator are unchanged. -/
def sameRun (s t : State) : Prop :=
  t.halt = s.halt ∧ t.stop = s.stop ∧ t.fault = s.fault ∧ t.clockM = s.clockM ∧ t.clockT = s.clockT

/-- Every array is unchanged. -/
def sameArrays (s t : State) : Prop := ∀ r : Region, t.array r = s.array r

/-- Every array is unchanged and every address reads as before. -/
def sameMemory (s t : State) : Prop := sameArrays s t ∧ ∀ A, t.memRead A = s.memRead A

/-- `cost(n)`: `m` is `n` and `t` four times that (70_reset_and_hazards.md R374). -/
def costs (t : State) (n : Nat) : Prop := t.m = n ∧ t.t = 4 * n

/-- An instruction that is no control transfer, of cost `n`, writes at most the listed registers, and `sp`, `f` and memory only
as stated beside this. -/
def within (s t : State) (regs : List Reg8) (n : Nat) : Prop :=
  sameRegs s t regs ∧ samePc s t ∧ t.ime = s.ime ∧ sameRun s t ∧ costs t n

/-- Neither `sp` nor memory is written. -/
def noStore (s t : State) : Prop := t.sp = s.sp ∧ sameMemory s t

/-- Every bit of `f`: the four flags as given, bits 3:0 unchanged (10_state.md R25, R26). -/
def flags (s t : State) (z n h c : Bool) : Prop :=
  t.f.getLsbD 7 = z ∧ t.f.getLsbD 6 = n ∧ t.f.getLsbD 5 = h ∧ t.f.getLsbD 4 = c ∧
    ∀ k, k < 4 → t.f.getLsbD k = s.f.getLsbD k

/-! ### Memory (20_memory.md) -/

/-- The addresses whose writes are stored: neither BIOS and ROM (R63) nor the OAM page tail (R60) nor the I/O range (R61). -/
def stored (A : Word) : Bool := decide (0x8000 ≤ A.toNat) && !(decide (0xFEA0 ≤ A.toNat) && decide (A.toNat ≤ 0xFF7F))

/-- The one address that stands for all addresses of the same cell: the shadow of working RAM has a second one (R58). -/
def cell (A : Word) : Nat := if 0xE000 ≤ A.toNat ∧ A.toNat ≤ 0xFDFF then A.toNat - 0x2000 else A.toNat

/-- Of a store at `A`: whether the address `B` reads the stored byte afterwards. -/
def hits (A B : Word) : Bool := stored A && decide (cell B = cell A)

/-- `MemWrite(A, 1, v)` and no other write: BIOS and ROM unchanged; every address reads the stored byte where it selects the
stored cell, and as before everywhere else. -/
def stores (s t : State) (A : Word) (v : Byte) : Prop :=
  t.bios = s.bios ∧ t.rom = s.rom ∧ ∀ B, t.memRead B = if hits A B then v else s.memRead B

/-- `MemWrite(A, 1, v)`, then `MemWrite(A', 1, v')`, and no other write. -/
def storesTwo (s t : State) (A : Word) (v : Byte) (A' : Word) (v' : Byte) : Prop :=
  t.bios = s.bios ∧ t.rom = s.rom ∧ ∀ B, t.memRead B = if hits A' B then v' else if hits A B then v else s.memRead B

/-- What an address reads with the BIOS latch at a given value (R54). -/
def readUnder (s : State) (latch : Bool) (B : Word) : Byte := State.memRead { s with inbios := latch } B

/-- `Push16(v)` (47_stack.md R270): the high byte at `sp - 1`, then the low byte at `sp - 2`, `sp` there, and no other write.
A jump in the same instruction may clear the latch, so an address outside the stored bytes reads what it did under the new
latch. -/
def pushes (s t : State) (v : Word) : Prop :=
  t.sp = plus s.sp 65534 ∧ t.bios = s.bios ∧ t.rom = s.rom ∧
    ∀ B, t.memRead B = if hits (plus s.sp 65534) B then low v else if hits (plus s.sp 65535) B then high v
      else readUnder s t.inbios B

/-- The word `Pop16()` returns (47_stack.md R271). -/
def popped (s : State) : Word := pair (s.memRead (plus s.sp 1)) (s.memRead s.sp)

/-! ### Control transfer -/

/-- `pc <- target`: the latch is cleared at 0x0100 and only there (10_state.md R31). -/
def goesTo (s t : State) (target : Word) : Prop := t.pc = target ∧ t.inbios = (s.inbios && decide (target.toNat ≠ 0x0100))

/-- A control transfer of cost `n` writes no flag and no register but the listed ones; `pc`, `sp` and memory as stated beside
this. -/
def transfer (s t : State) (regs : List Reg8) (n : Nat) : Prop :=
  sameRegs s t regs ∧ t.f = s.f ∧ sameRun s t ∧ costs t n

/-- No array is written; every address reads what it did under the new latch. -/
def noWrite (s t : State) : Prop := sameArrays s t ∧ ∀ A, t.memRead A = readUnder s t.inbios A

/-- A conditional transfer whose condition fails: only the cost. -/
def falls (s t : State) (regs : List Reg8) (n : Nat) : Prop :=
  transfer s t regs n ∧ samePc s t ∧ t.sp = s.sp ∧ t.ime = s.ime ∧ sameMemory s t

/-! ### Steps -/

/-- `pc` moved past `k` instruction bytes, the latch sampled at each (30_encoding.md R92; 10_state.md R31). -/
def past : Nat → State → State
  | 0, s => s
  | k + 1, s => past k { s with pc := plus s.pc 1, inbios := s.inbios && decide ((plus s.pc 1).toNat ≠ 0x0100) }

/-- The `k`-th byte of the instruction at `pc`, as its fetch reads it. -/
def byteAt (k : Nat) (s : State) : Byte := (past k s).memRead (past k s).pc

/-- The longest instruction that could stand at `pc`. -/
def bytesAt (s : State) : List Byte := [byteAt 0 s, byteAt 1 s, byteAt 2 s]

/-- The machine is neither stopped nor halted. -/
def running (s : State) : Prop := s.stop = false ∧ s.halt = false

/-- The unassigned bytes of the primary table (30_encoding.md R103). -/
def unassignedPrimary : List (Byte × Instr) :=
  [(0xD3, .unassignedD3), (0xDB, .unassignedDB), (0xDD, .unassignedDD), (0xE3, .unassignedE3), (0xE4, .unassignedE4),
    (0xEB, .unassignedEB), (0xEC, .unassignedEC), (0xED, .unassignedED), (0xF4, .unassignedF4), (0xFC, .unassignedFC),
    (0xFD, .unassignedFD)]

/-- The unassigned bytes of the secondary table (R103). -/
def unassignedSecondary : List (Byte × Instr) :=
  [(0x26, .unassignedCB26), (0x2E, .unassignedCB2E), (0x36, .unassignedCB36), (0x3E, .unassignedCB3E)]

/-- The bytes begin with an unassigned slot. -/
def unassigned (bytes : List Byte) : Bool :=
  match bytes with
  | [] => false
  | op :: rest =>
    (unassignedPrimary.map Prod.fst).contains op ||
      match rest with
      | [] => false
      | sub :: _ => op == 0xCB && (unassignedSecondary.map Prod.fst).contains sub

end Sys2Proof.Claim

open Sys2Proof Sys2Proof.Machine Sys2Proof.Claim

/-! ## Loads -/

namespace Sys2Proof.Claim

/-- Register `r` receives `v` at cost `n`; no flag, nothing else. -/
def loads (s t : State) (r : Reg8) (v : Byte) (n : Nat) : Prop :=
  t.reg r = v ∧ t.f = s.f ∧ within s t [r] n ∧ noStore s t

/-- The byte `v` is stored at `A` at cost `n`; no flag, no register, nothing else. -/
def storesByte (s t : State) (A : Word) (v : Byte) (n : Nat) : Prop :=
  stores s t A v ∧ t.f = s.f ∧ t.sp = s.sp ∧ within s t [] n

/-- `hl` receives `v`. -/
def setsHL (t : State) (v : Word) : Prop := t.h = high v ∧ t.l = low v

end Sys2Proof.Claim

/-- R121, R122, R124: the loads of any register from a register, from the byte at `hl`, from an immediate. -/
def Obligations.LoadRegister : Prop :=
  (∀ rd rs, decodes [opcode 1 (code rd) (code rs)] (.ldRR rd rs)) ∧
  (∀ r, decodes [opcode 1 (code r) 6] (.ldRHL r)) ∧
  (∀ r n, decodes [opcode 0 (code r) 6, n] (.ldRN r n)) ∧
  ∀ s : State,
    (∀ rd rs, ∃ t, exec (.ldRR rd rs) s = .next t ∧ loads s t rd (s.reg rs) 1) ∧
    (∀ r, ∃ t, exec (.ldRHL r) s = .next t ∧ loads s t r (atHL s) 2) ∧
    (∀ r n, ∃ t, exec (.ldRN r n) s = .next t ∧ loads s t r n 2)

/-- R126, R127, R135, R137, R139: the accumulator loaded through `bc`, `de`, the high page and an absolute address. -/
def Obligations.LoadAccumulator : Prop :=
  decodes [0x0A] .ldABC ∧ decodes [0x1A] .ldADE ∧ (∀ n, decodes [0xF0, n] (.ldhAN n)) ∧ decodes [0xF2] .ldAC ∧
  (∀ lo hi, decodes [0xFA, lo, hi] (.ldANn (pair hi lo))) ∧
  ∀ s : State,
    (∃ t, exec .ldABC s = .next t ∧ loads s t .a (s.memRead (pair s.b s.c)) 2) ∧
    (∃ t, exec .ldADE s = .next t ∧ loads s t .a (s.memRead (pair s.d s.e)) 2) ∧
    (∀ n, ∃ t, exec (.ldhAN n) s = .next t ∧ loads s t .a (s.memRead (BitVec.ofNat 16 (0xFF00 + n.toNat))) 3) ∧
    (∃ t, exec .ldAC s = .next t ∧ loads s t .a (s.memRead (BitVec.ofNat 16 (0xFF00 + s.c.toNat))) 2) ∧
    (∀ nn, ∃ t, exec (.ldANn nn) s = .next t ∧ loads s t .a (s.memRead nn) 4)

/-- R130 to R133: `hl` is modified after the access, modulo 65536. -/
def Obligations.LoadPostModify : Prop :=
  decodes [0x22] .ldiHLA ∧ decodes [0x2A] .ldiAHL ∧ decodes [0x32] .lddHLA ∧ decodes [0x3A] .lddAHL ∧
  ∀ s : State,
    (∃ t, exec .ldiHLA s = .next t ∧ stores s t (pair s.h s.l) s.a ∧ setsHL t (plus (pair s.h s.l) 1) ∧
      t.f = s.f ∧ t.sp = s.sp ∧ within s t [.h, .l] 2) ∧
    (∃ t, exec .ldiAHL s = .next t ∧ t.a = atHL s ∧ setsHL t (plus (pair s.h s.l) 1) ∧
      t.f = s.f ∧ within s t [.a, .h, .l] 2 ∧ noStore s t) ∧
    (∃ t, exec .lddHLA s = .next t ∧ stores s t (pair s.h s.l) s.a ∧ setsHL t (plus (pair s.h s.l) 65535) ∧
      t.f = s.f ∧ t.sp = s.sp ∧ within s t [.h, .l] 2) ∧
    (∃ t, exec .lddAHL s = .next t ∧ t.a = atHL s ∧ setsHL t (plus (pair s.h s.l) 65535) ∧
      t.f = s.f ∧ within s t [.a, .h, .l] 2 ∧ noStore s t)

/-- R123, R125, R128, R129, R134, R136, R138: the byte stores. -/
def Obligations.StoreByte : Prop :=
  (∀ r, decodes [opcode 1 6 (code r)] (.ldHLR r)) ∧ (∀ n, decodes [0x36, n] (.ldHLN n)) ∧ decodes [0x02] .ldBCA ∧
  decodes [0x12] .ldDEA ∧ (∀ n, decodes [0xE0, n] (.ldhNA n)) ∧ decodes [0xE2] .ldCA ∧
  (∀ lo hi, decodes [0xEA, lo, hi] (.ldNnA (pair hi lo))) ∧
  ∀ s : State,
    (∀ r, ∃ t, exec (.ldHLR r) s = .next t ∧ storesByte s t (pair s.h s.l) (s.reg r) 2) ∧
    (∀ n, ∃ t, exec (.ldHLN n) s = .next t ∧ storesByte s t (pair s.h s.l) n 3) ∧
    (∃ t, exec .ldBCA s = .next t ∧ storesByte s t (pair s.b s.c) s.a 2) ∧
    (∃ t, exec .ldDEA s = .next t ∧ storesByte s t (pair s.d s.e) s.a 2) ∧
    (∀ n, ∃ t, exec (.ldhNA n) s = .next t ∧ storesByte s t (BitVec.ofNat 16 (0xFF00 + n.toNat)) s.a 3) ∧
    (∃ t, exec .ldCA s = .next t ∧ storesByte s t (BitVec.ofNat 16 (0xFF00 + s.c.toNat)) s.a 2) ∧
    (∀ nn, ∃ t, exec (.ldNnA nn) s = .next t ∧ storesByte s t nn s.a 4)

/-- R150, R152: the byte read first goes to the low register; `LD SP,HL`. -/
def Obligations.LoadPair : Prop :=
  (∀ p lo hi, decodes [opcode 0 (2 * pairCode p) 1, lo, hi] (.ldRrNn p (pair hi lo))) ∧ decodes [0xF9] .ldSPHL ∧
  ∀ s : State,
    (∀ p nn, ∃ t, exec (.ldRrNn p nn) s = .next t ∧ pairValue t p = nn ∧ (p ≠ .sp → t.sp = s.sp) ∧
      t.f = s.f ∧ within s t (pairRegs p) 3 ∧ sameMemory s t) ∧
    (∃ t, exec .ldSPHL s = .next t ∧ t.sp = pair s.h s.l ∧ t.f = s.f ∧ within s t [] 2 ∧ sameMemory s t)

/-- R151: the word store, low byte at `nn`, high byte at `nn + 1` modulo 65536. -/
def Obligations.StoreStackPointer : Prop :=
  (∀ lo hi, decodes [0x08, lo, hi] (.ldNnSP (pair hi lo))) ∧
  ∀ (s : State) (nn : Word), ∃ t, exec (.ldNnSP nn) s = .next t ∧
    storesTwo s t nn (low s.sp) (plus nn 1) (high s.sp) ∧ t.f = s.f ∧ t.sp = s.sp ∧ within s t [] 5

/-- R153, R261: `sp + sext8(e)`, with `C` the unsigned carry of the low-byte addition and the other flags 0. -/
def Obligations.StackPointerOffset : Prop :=
  (∀ e, decodes [0xF8, e] (.ldHLSPE e)) ∧ (∀ e, decodes [0xE8, e] (.addSPE e)) ∧
  ∀ (s : State) (e : Byte),
    (∃ t, exec (.ldHLSPE e) s = .next t ∧ setsHL t (plus s.sp (sext e)) ∧
      flags s t false false false (decide (s.sp.toNat % 256 + e.toNat > 0xFF)) ∧ within s t [.h, .l] 3 ∧ noStore s t) ∧
    (∃ t, exec (.addSPE e) s = .next t ∧ t.sp = plus s.sp (sext e) ∧
      flags s t false false false (decide (s.sp.toNat % 256 + e.toNat > 0xFF)) ∧ within s t [] 4 ∧ sameMemory s t)

/-! ## Increment and decrement -/

/-- R170, R171: `Z` from the new value, `N` the constant, `H` and `C` unchanged. -/
def Obligations.IncDecRegister : Prop :=
  (∀ r, decodes [opcode 0 (code r) 4] (.incR r)) ∧ (∀ r, decodes [opcode 0 (code r) 5] (.decR r)) ∧
  ∀ (s : State) (r : Reg8),
    (∃ t, exec (.incR r) s = .next t ∧ (t.reg r).toNat = ((s.reg r).toNat + 1) % 256 ∧
      flags s t (decide ((t.reg r).toNat = 0)) false (s.f.getLsbD 5) (s.f.getLsbD 4) ∧ within s t [r] 1 ∧ noStore s t) ∧
    (∃ t, exec (.decR r) s = .next t ∧ (t.reg r).toNat = ((s.reg r).toNat + 255) % 256 ∧
      flags s t (decide ((t.reg r).toNat = 0)) true (s.f.getLsbD 5) (s.f.getLsbD 4) ∧ within s t [r] 1 ∧ noStore s t)

/-- R172, R173: the value computed is stored at `hl`, and the flags come from it, not from a read-back. -/
def Obligations.IncDecMemory : Prop :=
  decodes [0x34] .incHL ∧ decodes [0x35] .decHL ∧
  ∀ s : State,
    (∃ t, exec .incHL s = .next t ∧ stores s t (pair s.h s.l) (BitVec.ofNat 8 ((atHL s).toNat + 1)) ∧
      flags s t (decide (((atHL s).toNat + 1) % 256 = 0)) false (s.f.getLsbD 5) (s.f.getLsbD 4) ∧ t.sp = s.sp ∧
      within s t [] 3) ∧
    (∃ t, exec .decHL s = .next t ∧ stores s t (pair s.h s.l) (BitVec.ofNat 8 ((atHL s).toNat + 255)) ∧
      flags s t (decide (((atHL s).toNat + 255) % 256 = 0)) true (s.f.getLsbD 5) (s.f.getLsbD 4) ∧ t.sp = s.sp ∧
      within s t [] 3)

/-- R174, R175: modulo 65536, no flag. -/
def Obligations.IncDecPair : Prop :=
  (∀ p, decodes [opcode 0 (2 * pairCode p) 3] (.incRr p)) ∧ (∀ p, decodes [opcode 0 (2 * pairCode p + 1) 3] (.decRr p)) ∧
  ∀ (s : State) (p : RR),
    (∃ t, exec (.incRr p) s = .next t ∧ pairValue t p = plus (pairValue s p) 1 ∧ (p ≠ .sp → t.sp = s.sp) ∧
      t.f = s.f ∧ within s t (pairRegs p) 2 ∧ sameMemory s t) ∧
    (∃ t, exec (.decRr p) s = .next t ∧ pairValue t p = plus (pairValue s p) 65535 ∧ (p ≠ .sp → t.sp = s.sp) ∧
      t.f = s.f ∧ within s t (pairRegs p) 2 ∧ sameMemory s t)

/-! ## 8-bit arithmetic and logic -/

namespace Sys2Proof.Claim

/-- `a + v + cin` (R180, R183). -/
def adds (s t : State) (v : Byte) (cin n : Nat) : Prop :=
  t.a.toNat = (s.a.toNat + v.toNat + cin) % 256 ∧
  flags s t (decide (t.a.toNat = 0)) false false (decide (s.a.toNat + v.toNat + cin > 255)) ∧
  within s t [.a] n ∧ noStore s t

/-- `a - v - cin` (R186, R189): a negative difference wraps modulo 256 and is reported by `C`. -/
def subtracts (s t : State) (v : Byte) (cin n : Nat) : Prop :=
  (t.a.toNat : Int) = ((s.a.toNat : Int) - v.toNat - cin) % 256 ∧
  flags s t (decide (t.a.toNat = 0)) true false (decide ((s.a.toNat : Int) - v.toNat - cin < 0)) ∧
  within s t [.a] n ∧ noStore s t

/-- The flags of `a - v`; `a` is not written (R201). -/
def compares (s t : State) (v : Byte) (n : Nat) : Prop :=
  flags s t (decide (((s.a.toNat : Int) - v.toNat) % 256 = 0)) true false (decide ((s.a.toNat : Int) - v.toNat < 0)) ∧
  within s t [] n ∧ noStore s t

/-- A bitwise operation on `a`: `Z` from the result, the other flags 0 (R192, R195, R198). -/
def combines (s t : State) (op : Bool → Bool → Bool) (v : Byte) (n : Nat) : Prop :=
  (∀ k, k < 8 → t.a.getLsbD k = op (s.a.getLsbD k) (v.getLsbD k)) ∧
  flags s t (decide (t.a.toNat = 0)) false false false ∧ within s t [.a] n ∧ noStore s t

end Sys2Proof.Claim

/-- R180 to R185: addition, with the carry flag as carry-in for `ADC`. -/
def Obligations.AddAdc : Prop :=
  (∀ r, decodes [opcode 2 0 (code r)] (.addAR r)) ∧ decodes [0x86] .addAHL ∧ (∀ n, decodes [0xC6, n] (.addAN n)) ∧
  (∀ r, decodes [opcode 2 1 (code r)] (.adcAR r)) ∧ decodes [0x8E] .adcAHL ∧ (∀ n, decodes [0xCE, n] (.adcAN n)) ∧
  ∀ s : State,
    (∀ r, ∃ t, exec (.addAR r) s = .next t ∧ adds s t (s.reg r) 0 1) ∧
    (∃ t, exec .addAHL s = .next t ∧ adds s t (atHL s) 0 2) ∧
    (∀ n, ∃ t, exec (.addAN n) s = .next t ∧ adds s t n 0 2) ∧
    (∀ r, ∃ t, exec (.adcAR r) s = .next t ∧ adds s t (s.reg r) (carry s) 1) ∧
    (∃ t, exec .adcAHL s = .next t ∧ adds s t (atHL s) (carry s) 2) ∧
    (∀ n, ∃ t, exec (.adcAN n) s = .next t ∧ adds s t n (carry s) 2)

/-- R186 to R191: subtraction, with the carry flag as borrow-in for `SBC`. -/
def Obligations.SubSbc : Prop :=
  (∀ r, decodes [opcode 2 2 (code r)] (.subR r)) ∧ decodes [0x96] .subHL ∧ (∀ n, decodes [0xD6, n] (.subN n)) ∧
  (∀ r, decodes [opcode 2 3 (code r)] (.sbcAR r)) ∧ decodes [0x9E] .sbcAHL ∧ (∀ n, decodes [0xDE, n] (.sbcAN n)) ∧
  ∀ s : State,
    (∀ r, ∃ t, exec (.subR r) s = .next t ∧ subtracts s t (s.reg r) 0 1) ∧
    (∃ t, exec .subHL s = .next t ∧ subtracts s t (atHL s) 0 2) ∧
    (∀ n, ∃ t, exec (.subN n) s = .next t ∧ subtracts s t n 0 2) ∧
    (∀ r, ∃ t, exec (.sbcAR r) s = .next t ∧ subtracts s t (s.reg r) (carry s) 1) ∧
    (∃ t, exec .sbcAHL s = .next t ∧ subtracts s t (atHL s) (carry s) 2) ∧
    (∀ n, ∃ t, exec (.sbcAN n) s = .next t ∧ subtracts s t n (carry s) 2)

/-- R201 to R203: the comparison. -/
def Obligations.CompareWithAccumulator : Prop :=
  (∀ r, decodes [opcode 2 7 (code r)] (.cpR r)) ∧ decodes [0xBE] .cpHL ∧ (∀ n, decodes [0xFE, n] (.cpN n)) ∧
  ∀ s : State,
    (∀ r, ∃ t, exec (.cpR r) s = .next t ∧ compares s t (s.reg r) 1) ∧
    (∃ t, exec .cpHL s = .next t ∧ compares s t (atHL s) 2) ∧
    (∀ n, ∃ t, exec (.cpN n) s = .next t ∧ compares s t n 2)

/-- R192 to R200: bit by bit. -/
def Obligations.BitwiseLogic : Prop :=
  (∀ r, decodes [opcode 2 4 (code r)] (.andR r)) ∧ decodes [0xA6] .andHL ∧ (∀ n, decodes [0xE6, n] (.andN n)) ∧
  (∀ r, decodes [opcode 2 5 (code r)] (.xorR r)) ∧ decodes [0xAE] .xorHL ∧ (∀ n, decodes [0xEE, n] (.xorN n)) ∧
  (∀ r, decodes [opcode 2 6 (code r)] (.orR r)) ∧ decodes [0xB6] .orHL ∧ (∀ n, decodes [0xF6, n] (.orN n)) ∧
  ∀ s : State,
    (∀ r, ∃ t, exec (.andR r) s = .next t ∧ combines s t and (s.reg r) 1) ∧
    (∃ t, exec .andHL s = .next t ∧ combines s t and (atHL s) 2) ∧
    (∀ n, ∃ t, exec (.andN n) s = .next t ∧ combines s t and n 2) ∧
    (∀ r, ∃ t, exec (.xorR r) s = .next t ∧ combines s t xor (s.reg r) 1) ∧
    (∃ t, exec .xorHL s = .next t ∧ combines s t xor (atHL s) 2) ∧
    (∀ n, ∃ t, exec (.xorN n) s = .next t ∧ combines s t xor n 2) ∧
    (∀ r, ∃ t, exec (.orR r) s = .next t ∧ combines s t or (s.reg r) 1) ∧
    (∃ t, exec .orHL s = .next t ∧ combines s t or (atHL s) 2) ∧
    (∀ n, ∃ t, exec (.orN n) s = .next t ∧ combines s t or n 2)

namespace Sys2Proof.Claim

/-- The value and the carry `DAA` computes, step by step as R204 writes it. -/
def daa (a : Nat) (n h c : Bool) : Int × Bool :=
  let v0 : Int := a
  if n = false then
    let (v1, c1) := if c = true ∨ v0 > 0x99 then (v0 + 0x60, true) else (v0, c)
    let v2 := if h = true ∨ v1 % 16 > 0x09 then v1 + 0x06 else v1
    (v2, c1)
  else
    let v1 := if c = true then v0 - 0x60 else v0
    let v2 := if h = true then v1 - 0x06 else v1
    (v2, c)

end Sys2Proof.Claim

/-- R204: decimal adjust. -/
def Obligations.DecimalAdjust : Prop :=
  decodes [0x27] .daa ∧
  ∀ s : State, ∃ t, exec .daa s = .next t ∧
    (t.a.toNat : Int) = (daa s.a.toNat (s.f.getLsbD 6) (s.f.getLsbD 5) (s.f.getLsbD 4)).1 % 256 ∧
    flags s t (decide (t.a.toNat = 0)) (s.f.getLsbD 6) false
      (daa s.a.toNat (s.f.getLsbD 6) (s.f.getLsbD 5) (s.f.getLsbD 4)).2 ∧
    within s t [.a] 1 ∧ noStore s t

/-- Derived from R204's corner cases: after an addition of packed decimal digits `DAA` gives the packed decimal sum,
whenever the low digits with the carry-in add up to less than 16. -/
def Obligations.DecimalAddition : Prop :=
  ∀ (s : State) (x1 x0 y1 y0 : Nat) (v : Byte), x1 ≤ 9 → x0 ≤ 9 → y1 ≤ 9 → y0 ≤ 9 → x0 + y0 + carry s < 16 →
    s.a.toNat = 16 * x1 + x0 → v.toNat = 16 * y1 + y0 →
    ∃ t u, exec (.adcAN v) s = .next t ∧ exec .daa t = .next u ∧
      let sum := 10 * x1 + x0 + (10 * y1 + y0) + carry s
      u.a.toNat = 16 * (sum / 10 % 10) + sum % 10 ∧ u.f.getLsbD 4 = decide (100 ≤ sum)

/-- R205 to R207: `CPL`, `SCF`, `CCF`. -/
def Obligations.ComplementAndCarry : Prop :=
  decodes [0x2F] .cpl ∧ decodes [0x37] .scf ∧ decodes [0x3F] .ccf ∧
  ∀ s : State,
    (∃ t, exec .cpl s = .next t ∧ (∀ k, k < 8 → t.a.getLsbD k = !s.a.getLsbD k) ∧
      flags s t (s.f.getLsbD 7) true (s.f.getLsbD 5) (s.f.getLsbD 4) ∧ within s t [.a] 1 ∧ noStore s t) ∧
    (∃ t, exec .scf s = .next t ∧ flags s t (s.f.getLsbD 7) false false true ∧ within s t [] 1 ∧ noStore s t) ∧
    (∃ t, exec .ccf s = .next t ∧ flags s t (s.f.getLsbD 7) false false (!s.f.getLsbD 4) ∧ within s t [] 1 ∧ noStore s t)

/-! ## Bits, rotates, shifts -/

/-- R220, R221: `Z` is the complement of the tested bit; nothing but `f` is written. -/
def Obligations.BitTest : Prop :=
  (∀ b r, b < 8 → decodes [0xCB, opcode 1 b (code r)] (.bitR b r)) ∧
  (∀ b, b < 8 → decodes [0xCB, opcode 1 b 6] (.bitHL b)) ∧
  ∀ (s : State) (b : Nat), b < 8 →
    (∀ r, ∃ t, exec (.bitR b r) s = .next t ∧ flags s t (!(s.reg r).getLsbD b) false false (s.f.getLsbD 4) ∧
      within s t [] 2 ∧ noStore s t) ∧
    (∃ t, exec (.bitHL b) s = .next t ∧ flags s t (!(atHL s).getLsbD b) false false (s.f.getLsbD 4) ∧
      within s t [] 3 ∧ noStore s t)

/-- R222, R224: one bit of a register cleared or set; no flag. -/
def Obligations.ResSetRegister : Prop :=
  (∀ b r, b < 8 → decodes [0xCB, opcode 2 b (code r)] (.resR b r)) ∧
  (∀ b r, b < 8 → decodes [0xCB, opcode 3 b (code r)] (.setR b r)) ∧
  ∀ (s : State) (b : Nat) (r : Reg8), b < 8 →
    (∃ t, exec (.resR b r) s = .next t ∧
      (∀ k, k < 8 → (t.reg r).getLsbD k = if k = b then false else (s.reg r).getLsbD k) ∧ t.f = s.f ∧ within s t [r] 2 ∧
      noStore s t) ∧
    (∃ t, exec (.setR b r) s = .next t ∧
      (∀ k, k < 8 → (t.reg r).getLsbD k = if k = b then true else (s.reg r).getLsbD k) ∧ t.f = s.f ∧ within s t [r] 2 ∧
      noStore s t)

/-- R223, R225: the same on the byte at `hl`, one read and one write; no flag. -/
def Obligations.ResSetMemory : Prop :=
  (∀ b, b < 8 → decodes [0xCB, opcode 2 b 6] (.resHL b)) ∧ (∀ b, b < 8 → decodes [0xCB, opcode 3 b 6] (.setHL b)) ∧
  ∀ (s : State) (b : Nat), b < 8 →
    (∃ t w, exec (.resHL b) s = .next t ∧ (∀ k, k < 8 → w.getLsbD k = if k = b then false else (atHL s).getLsbD k) ∧
      storesByte s t (pair s.h s.l) w 4) ∧
    (∃ t w, exec (.setHL b) s = .next t ∧ (∀ k, k < 8 → w.getLsbD k = if k = b then true else (atHL s).getLsbD k) ∧
      storesByte s t (pair s.h s.l) w 4)

namespace Sys2Proof.Claim

/-! The functions of R229 on the number of a byte: `v / 128` is `v7`, `v % 2` is `v0`. -/

/-- Rotate left within the byte. -/
def rlc (v : Nat) : Nat := v * 2 % 256 + v / 128
/-- Rotate right within the byte. -/
def rrc (v : Nat) : Nat := v / 2 + v % 2 * 128
/-- Rotate left through carry. -/
def rl (v c : Nat) : Nat := v * 2 % 256 + c
/-- Rotate right through carry. -/
def rr (v c : Nat) : Nat := v / 2 + c * 128
/-- Shift left arithmetic. -/
def sla (v : Nat) : Nat := v * 2 % 256
/-- Shift right arithmetic: bit 7 keeps its value. -/
def sra (v : Nat) : Nat := v / 2 + v / 128 * 128
/-- Shift left, bit 0 becomes 1. -/
def sll (v : Nat) : Nat := v * 2 % 256 + 1
/-- Shift right logical. -/
def srl (v : Nat) : Nat := v / 2

/-- An accumulator rotate: only `a` and `C` (R230 to R233). -/
def rotatesA (s t : State) (w : Nat) (c : Bool) : Prop :=
  t.a.toNat = w ∧ flags s t (s.f.getLsbD 7) (s.f.getLsbD 6) (s.f.getLsbD 5) c ∧ within s t [.a] 1 ∧ noStore s t

/-- A rotate or shift of a register (R234 to R245): `Z` from the result, `N` and `H` 0, `C` the bit that left. -/
def rotatesR (s t : State) (r : Reg8) (w : Nat) (c : Bool) : Prop :=
  (t.reg r).toNat = w ∧ flags s t (decide (w = 0)) false false c ∧ within s t [r] 2 ∧ noStore s t

/-- A rotate of the byte at `hl` (R235 to R241): the flags describe the value computed. -/
def rotatesHL (s t : State) (w : Nat) (c : Bool) : Prop :=
  stores s t (pair s.h s.l) (BitVec.ofNat 8 w) ∧ flags s t (decide (w = 0)) false false c ∧ t.sp = s.sp ∧ within s t [] 4

end Sys2Proof.Claim

/-- R230 to R233. -/
def Obligations.RotateAccumulator : Prop :=
  decodes [0x07] .rlca ∧ decodes [0x17] .rla ∧ decodes [0x0F] .rrca ∧ decodes [0x1F] .rra ∧
  ∀ s : State,
    (∃ t, exec .rlca s = .next t ∧ rotatesA s t (rlc s.a.toNat) (s.a.getLsbD 7)) ∧
    (∃ t, exec .rla s = .next t ∧ rotatesA s t (rl s.a.toNat (carry s)) (s.a.getLsbD 7)) ∧
    (∃ t, exec .rrca s = .next t ∧ rotatesA s t (rrc s.a.toNat) (s.a.getLsbD 0)) ∧
    (∃ t, exec .rra s = .next t ∧ rotatesA s t (rr s.a.toNat (carry s)) (s.a.getLsbD 0))

/-- R234, R236, R238, R240. -/
def Obligations.RotateRegister : Prop :=
  (∀ r, decodes [0xCB, opcode 0 0 (code r)] (.rlcR r)) ∧ (∀ r, decodes [0xCB, opcode 0 1 (code r)] (.rrcR r)) ∧
  (∀ r, decodes [0xCB, opcode 0 2 (code r)] (.rlR r)) ∧ (∀ r, decodes [0xCB, opcode 0 3 (code r)] (.rrR r)) ∧
  ∀ (s : State) (r : Reg8),
    (∃ t, exec (.rlcR r) s = .next t ∧ rotatesR s t r (rlc (s.reg r).toNat) ((s.reg r).getLsbD 7)) ∧
    (∃ t, exec (.rrcR r) s = .next t ∧ rotatesR s t r (rrc (s.reg r).toNat) ((s.reg r).getLsbD 0)) ∧
    (∃ t, exec (.rlR r) s = .next t ∧ rotatesR s t r (rl (s.reg r).toNat (carry s)) ((s.reg r).getLsbD 7)) ∧
    (∃ t, exec (.rrR r) s = .next t ∧ rotatesR s t r (rr (s.reg r).toNat (carry s)) ((s.reg r).getLsbD 0))

/-- R235, R237, R239, R241. -/
def Obligations.RotateMemory : Prop :=
  decodes [0xCB, 0x06] .rlcHL ∧ decodes [0xCB, 0x0E] .rrcHL ∧ decodes [0xCB, 0x16] .rlHL ∧ decodes [0xCB, 0x1E] .rrHL ∧
  ∀ s : State,
    (∃ t, exec .rlcHL s = .next t ∧ rotatesHL s t (rlc (atHL s).toNat) ((atHL s).getLsbD 7)) ∧
    (∃ t, exec .rrcHL s = .next t ∧ rotatesHL s t (rrc (atHL s).toNat) ((atHL s).getLsbD 0)) ∧
    (∃ t, exec .rlHL s = .next t ∧ rotatesHL s t (rl (atHL s).toNat (carry s)) ((atHL s).getLsbD 7)) ∧
    (∃ t, exec .rrHL s = .next t ∧ rotatesHL s t (rr (atHL s).toNat (carry s)) ((atHL s).getLsbD 0))

/-- R242 to R245. -/
def Obligations.ShiftRegister : Prop :=
  (∀ r, decodes [0xCB, opcode 0 4 (code r)] (.slaR r)) ∧ (∀ r, decodes [0xCB, opcode 0 5 (code r)] (.sraR r)) ∧
  (∀ r, decodes [0xCB, opcode 0 6 (code r)] (.sllR r)) ∧ (∀ r, decodes [0xCB, opcode 0 7 (code r)] (.srlR r)) ∧
  ∀ (s : State) (r : Reg8),
    (∃ t, exec (.slaR r) s = .next t ∧ rotatesR s t r (sla (s.reg r).toNat) ((s.reg r).getLsbD 7)) ∧
    (∃ t, exec (.sraR r) s = .next t ∧ rotatesR s t r (sra (s.reg r).toNat) ((s.reg r).getLsbD 0)) ∧
    (∃ t, exec (.sllR r) s = .next t ∧ rotatesR s t r (sll (s.reg r).toNat) ((s.reg r).getLsbD 7)) ∧
    (∃ t, exec (.srlR r) s = .next t ∧ rotatesR s t r (srl (s.reg r).toNat) ((s.reg r).getLsbD 0))

/-! ## 16-bit arithmetic and the stack -/

/-- R260: the 17-bit sum; only `C` of the flags. -/
def Obligations.AddHL : Prop :=
  (∀ p, decodes [opcode 0 (2 * pairCode p + 1) 1] (.addHLRr p)) ∧
  ∀ (s : State) (p : RR), ∃ t, exec (.addHLRr p) s = .next t ∧
    setsHL t (plus (pair s.h s.l) (pairValue s p).toNat) ∧
    flags s t (s.f.getLsbD 7) (s.f.getLsbD 6) (s.f.getLsbD 5) (decide ((pair s.h s.l).toNat + (pairValue s p).toNat > 65535)) ∧
    within s t [.h, .l] 2 ∧ noStore s t

/-- R272: all eight bits of `f` for `AF`; the pair itself is not changed. -/
def Obligations.PushPair : Prop :=
  (∀ q, decodes [opcode 3 (2 * stackCode q) 5] (.pushQq q)) ∧
  ∀ (s : State) (q : QQ), ∃ t, exec (.pushQq q) s = .next t ∧ pushes s t (stackValue s q) ∧ t.f = s.f ∧ within s t [] 4

/-- R273, R274: the low byte from `sp`, the high byte from `sp + 1`, `sp` up by two; `POP AF` loads all eight bits of `f`. -/
def Obligations.PopPair : Prop :=
  (∀ q, q ≠ .af → decodes [opcode 3 (2 * stackCode q) 1] (.popRr q)) ∧ decodes [0xF1] .popAF ∧
  ∀ s : State,
    (∃ t, exec (.popRr .bc) s = .next t ∧ t.b = s.memRead (plus s.sp 1) ∧ t.c = s.memRead s.sp ∧ t.f = s.f ∧
      t.sp = plus s.sp 2 ∧ within s t [.b, .c] 3 ∧ sameMemory s t) ∧
    (∃ t, exec (.popRr .de) s = .next t ∧ t.d = s.memRead (plus s.sp 1) ∧ t.e = s.memRead s.sp ∧ t.f = s.f ∧
      t.sp = plus s.sp 2 ∧ within s t [.d, .e] 3 ∧ sameMemory s t) ∧
    (∃ t, exec (.popRr .hl) s = .next t ∧ t.h = s.memRead (plus s.sp 1) ∧ t.l = s.memRead s.sp ∧ t.f = s.f ∧
      t.sp = plus s.sp 2 ∧ within s t [.h, .l] 3 ∧ sameMemory s t) ∧
    (∃ t, exec .popAF s = .next t ∧ t.a = s.memRead (plus s.sp 1) ∧ t.f = s.memRead s.sp ∧
      t.sp = plus s.sp 2 ∧ within s t [.a] 3 ∧ sameMemory s t)

/-- Derived from R271 and R275 (c): a push and the pop of the same pair give back the pair and `sp`, for every value, when
both bytes land in storage; every register is as before. -/
def Obligations.PushPopRoundTrip : Prop :=
  ∀ (s : State) (q : QQ), stored (plus s.sp 65535) = true → stored (plus s.sp 65534) = true →
    ∃ t u, exec (.pushQq q) s = .next t ∧ exec (if q = .af then .popAF else .popRr q) t = .next u ∧
      stackValue u q = stackValue s q ∧ u.sp = s.sp ∧ u.f = s.f ∧ sameRegs s u []

/-! ## Control transfer -/

/-- R290 to R292: the jumps. -/
def Obligations.JumpAbsolute : Prop :=
  (∀ lo hi, decodes [0xC3, lo, hi] (.jpNn (pair hi lo))) ∧
  (∀ cc lo hi, decodes [opcode 3 (condCode cc) 2, lo, hi] (.jpCcNn cc (pair hi lo))) ∧ decodes [0xE9] .jpHL ∧
  ∀ s : State,
    (∀ nn, ∃ t, exec (.jpNn nn) s = .next t ∧ goesTo s t nn ∧ t.sp = s.sp ∧ t.ime = s.ime ∧ noWrite s t ∧ transfer s t [] 4) ∧
    (∀ cc nn, holds s cc → ∃ t, exec (.jpCcNn cc nn) s = .next t ∧ goesTo s t nn ∧ t.sp = s.sp ∧ t.ime = s.ime ∧
      noWrite s t ∧ transfer s t [] 4) ∧
    (∀ cc nn, ¬ holds s cc → ∃ t, exec (.jpCcNn cc nn) s = .next t ∧ falls s t [] 3) ∧
    (∃ t, exec .jpHL s = .next t ∧ goesTo s t (pair s.h s.l) ∧ t.sp = s.sp ∧ t.ime = s.ime ∧ noWrite s t ∧ transfer s t [] 1)

/-- R293, R294: the relative jumps, from the `pc` after the operand byte. -/
def Obligations.RelativeJump : Prop :=
  (∀ e, decodes [0x18, e] (.jr e)) ∧ (∀ cc e, decodes [opcode 0 (4 + condCode cc) 0, e] (.jrCc cc e)) ∧
  ∀ s : State,
    (∀ e, ∃ t, exec (.jr e) s = .next t ∧ goesTo s t (plus s.pc (sext e)) ∧ t.sp = s.sp ∧ t.ime = s.ime ∧ noWrite s t ∧
      transfer s t [] 3) ∧
    (∀ cc e, holds s cc → ∃ t, exec (.jrCc cc e) s = .next t ∧ goesTo s t (plus s.pc (sext e)) ∧ t.sp = s.sp ∧
      t.ime = s.ime ∧ noWrite s t ∧ transfer s t [] 3) ∧
    (∀ cc e, ¬ holds s cc → ∃ t, exec (.jrCc cc e) s = .next t ∧ falls s t [] 2)

/-- R301: `b` is decremented, no flag written, and the branch taken while `b` is not 0. -/
def Obligations.DecrementAndJump : Prop :=
  (∀ e, decodes [0x10, e] (.djnz e)) ∧
  ∀ (s : State) (e : Byte),
    (s.b.toNat ≠ 1 → ∃ t, exec (.djnz e) s = .next t ∧ t.b.toNat = (s.b.toNat + 255) % 256 ∧
      goesTo s t (plus s.pc (sext e)) ∧ t.sp = s.sp ∧ t.ime = s.ime ∧ noWrite s t ∧ transfer s t [.b] 3) ∧
    (s.b.toNat = 1 → ∃ t, exec (.djnz e) s = .next t ∧ t.b.toNat = 0 ∧ falls s t [.b] 2)

/-- R295, R296: the instruction-following address is pushed, then the jump. -/
def Obligations.CallSubroutine : Prop :=
  (∀ lo hi, decodes [0xCD, lo, hi] (.callNn (pair hi lo))) ∧
  (∀ cc lo hi, decodes [opcode 3 (condCode cc) 4, lo, hi] (.callCcNn cc (pair hi lo))) ∧
  ∀ (s : State) (nn : Word),
    (∃ t, exec (.callNn nn) s = .next t ∧ pushes s t s.pc ∧ goesTo s t nn ∧ t.ime = s.ime ∧ transfer s t [] 6) ∧
    (∀ cc, holds s cc → ∃ t, exec (.callCcNn cc nn) s = .next t ∧ pushes s t s.pc ∧ goesTo s t nn ∧ t.ime = s.ime ∧
      transfer s t [] 6) ∧
    (∀ cc, ¬ holds s cc → ∃ t, exec (.callCcNn cc nn) s = .next t ∧ falls s t [] 3)

/-- R297 to R299: the popped word goes to `pc`; `RETI` also writes `ime`. -/
def Obligations.ReturnFromSubroutine : Prop :=
  decodes [0xC9] .ret ∧ decodes [0xD9] .reti ∧ (∀ cc, decodes [opcode 3 (condCode cc) 0] (.retCc cc)) ∧
  ∀ s : State,
    (∃ t, exec .ret s = .next t ∧ goesTo s t (popped s) ∧ t.sp = plus s.sp 2 ∧ t.ime = s.ime ∧ noWrite s t ∧
      transfer s t [] 4) ∧
    (∃ t, exec .reti s = .next t ∧ goesTo s t (popped s) ∧ t.sp = plus s.sp 2 ∧ t.ime = true ∧ noWrite s t ∧
      transfer s t [] 4) ∧
    (∀ cc, holds s cc → ∃ t, exec (.retCc cc) s = .next t ∧ goesTo s t (popped s) ∧ t.sp = plus s.sp 2 ∧ t.ime = s.ime ∧
      noWrite s t ∧ transfer s t [] 5) ∧
    (∀ cc, ¬ holds s cc → ∃ t, exec (.retCc cc) s = .next t ∧ falls s t [] 2)

/-- R300: the eight restarts. -/
def Obligations.RestartVectors : Prop :=
  ∀ y, y < 8 → decodes [opcode 3 y 7] (.rst (BitVec.ofNat 8 (y * 8))) ∧
    ∀ s : State, ∃ t, exec (.rst (BitVec.ofNat 8 (y * 8))) s = .next t ∧ pushes s t s.pc ∧
      goesTo s t (BitVec.ofNat 16 (y * 8)) ∧ t.ime = s.ime ∧ transfer s t [] 4

/-! ## Control and meta, the prefix, the unassigned slots -/

/-- R310 to R313: `NOP`, `HALT`, `DI`, `EI`, each with everything it leaves alone; and what every step after `HALT` does. -/
def Obligations.NopHaltDiEi : Prop :=
  decodes [0x00] .nop ∧ decodes [0x76] .halt ∧ decodes [0xF3] .di ∧ decodes [0xFB] .ei ∧
  ∀ s : State,
    exec .nop s = .next { s with m := 1, t := 4 } ∧
    exec .halt s = .next { s with halt := true, m := 1, t := 4 } ∧
    (∀ t : State, t.stop = false → t.halt = true →
      step t = .next { t with m := 1, t := 4, clockM := t.clockM + 1, clockT := t.clockT + 4 }) ∧
    exec .di s = .next { s with ime := false, m := 1, t := 4 } ∧
    exec .ei s = .next { s with ime := true, m := 1, t := 4 }

/-- R314: the prefix reads the byte at `pc`, moves `pc` past it and does what the instruction of those two bytes does, in the
same step. -/
def Obligations.PrefixDispatch : Prop :=
  (∀ rest, decodePrimary (0xCB :: rest) = .ok (.cbPrefix, rest)) ∧
  ∀ s : State, ∃ i t, decode [0xCB, byteAt 0 s] = .ok (i, []) ∧ exec .cbPrefix s = exec i (past 1 s) ∧
    exec .cbPrefix s = .next t

/-- R315, R316: the fifteen unassigned slots take the fault, cause 0 or 1, with the byte and the address it was fetched from,
and write nothing else: no flag, no register, no cost, no memory, not `pc`. -/
def Obligations.UnassignedSlots : Prop :=
  (∀ x ∈ unassignedPrimary, decodes [x.1] x.2 ∧
    ∀ s : State, exec x.2 s = .next { s with fault := some ⟨false, x.1, plus s.pc 65535⟩, stop := true }) ∧
  (∀ x ∈ unassignedSecondary, decodes [0xCB, x.1] x.2 ∧
    ∀ s : State, exec x.2 s = .next { s with fault := some ⟨true, x.1, plus s.pc 65535⟩, stop := true })

/-! ## The execution loop -/

/-- From R350, the case of a running machine (`StepStoppedOrHalted` has the others): the bytes at `pc` decode, and a step is
that instruction at the state with `pc` past its bytes; its cost goes into the Clock Accumulator unless it raised the fault. -/
def Obligations.StepRunsDecodedInstruction : Prop :=
  ∀ s : State, running s →
    ∃ i rest t, decode (bytesAt s) = .ok (i, rest) ∧ exec i (past (3 - rest.length) s) = .next t ∧
      step s = .next (if t.stop then t else { t with clockM := t.clockM + t.m, clockT := t.clockT + t.t }) ∧
      stepStatus s = if t.stop then .fault else .ok

/-- R333, R351: a step of a stopped machine changes nothing; a step of a halted one accounts one idle machine cycle. -/
def Obligations.StepStoppedOrHalted : Prop :=
  ∀ s : State,
    (s.stop = true → step s = .next s ∧ stepStatus s = .stopped) ∧
    (s.stop = false → s.halt = true →
      step s = .next { s with m := 1, t := 4, clockM := s.clockM + 1, clockT := s.clockT + 4 } ∧ stepStatus s = .halted)

/-- R331: taking the exception. A step that reaches an unassigned slot records cause, byte and fetch address, sets `stop`,
leaves `pc` past the bytes fetched (and the latch as that advance left it), and changes nothing else. -/
def Obligations.FaultEntry : Prop :=
  ∀ s : State, running s →
    ((∃ x ∈ unassignedPrimary, byteAt 0 s = x.1) →
      step s = .next { past 1 s with fault := some ⟨false, byteAt 0 s, s.pc⟩, stop := true } ∧ stepStatus s = .fault) ∧
    (byteAt 0 s = 0xCB → (∃ x ∈ unassignedSecondary, byteAt 1 s = x.1) →
      step s = .next { past 2 s with fault := some ⟨true, byteAt 1 s, plus s.pc 1⟩, stop := true } ∧ stepStatus s = .fault)

/-- R103: executing an instruction sets `stop` exactly when its bytes are an unassigned slot. -/
def Obligations.OnlyUnassignedSlotsFault : Prop :=
  ∀ (bytes rest : List Byte) (i : Instr) (s t : State), decode bytes = .ok (i, rest) → s.stop = false →
    exec i s = .next t → (t.stop = true ↔ unassigned bytes = true)

/-- Derived: the inference R376 draws from R374 and R375, and R350. An instruction that completes costs one to six machine
cycles, `t` is four times `m`, and the Clock Accumulator takes in both; a fault costs nothing. -/
def Obligations.CostBounds : Prop :=
  ∀ s : State, running s → ∃ t, step s = .next t ∧
    (t.stop = false → 1 ≤ t.m ∧ t.m ≤ 6 ∧ t.t = 4 * t.m ∧ t.clockM = s.clockM + t.m ∧ t.clockT = s.clockT + t.t) ∧
    (t.stop = true → t.m = s.m ∧ t.t = s.t ∧ t.clockM = s.clockM ∧ t.clockT = s.clockT)

namespace Sys2Proof.Claim

/-- The control transfers of 48_control_transfer.md. -/
def isTransfer : Instr → Bool
  | .jpNn _ | .jpCcNn _ _ | .jpHL | .jr _ | .jrCc _ _ | .djnz _ | .callNn _ | .callCcNn _ _ | .ret | .reti | .retCc _
  | .rst _ => true
  | _ => false

end Sys2Proof.Claim

/-- Derived from one sentence of R29: an instruction that is not a control transfer leaves `pc` at the
instruction-following address. -/
def Obligations.PcFollowsInstruction : Prop :=
  ∀ (s t : State) (i : Instr) (rest : List Byte), running s → decode (bytesAt s) = .ok (i, rest) → isTransfer i = false →
    step s = .next t → t.pc = plus s.pc (3 - rest.length)

/-! ## Decoding -/

/-- Derived from the tables of R91 to R103: decoding the encoding of any well-formed instruction gives it back with every
operand, whatever follows; the prefix, which is no whole instruction, is given back by the primary table. -/
def Obligations.DecodeEncode : Prop :=
  ∀ (i : Instr) (rest : List Byte), i.wf = true →
    (i ≠ .cbPrefix → decode (encode i ++ rest) = .ok (i, rest)) ∧
    (i = .cbPrefix → decodePrimary (encode i ++ rest) = .ok (i, rest))

/-- Derived from R106, itself the spec's inference: bytes that decode are the encoding of what they decode to, so no two
encodings mean the same instruction; and every three bytes decode. -/
def Obligations.EncodeDecode : Prop :=
  (∀ (bytes rest : List Byte) (i : Instr), decode bytes = .ok (i, rest) →
    bytes = encode i ++ rest ∧ i.wf = true ∧ i ≠ .cbPrefix) ∧
  ∀ b0 b1 b2 : Byte, ∃ i rest, decode [b0, b1, b2] = .ok (i, rest)

namespace Sys2Proof.Claim

/-- The 3-byte opcodes of R105. -/
def threeByte : List Byte :=
  [0x01, 0x08, 0x11, 0x21, 0x31, 0xC2, 0xC3, 0xC4, 0xCA, 0xCC, 0xCD, 0xD2, 0xD4, 0xDA, 0xDC, 0xEA, 0xFA]

/-- The 2-byte opcodes of R105, besides `0xCB`. -/
def twoByte : List Byte :=
  [0x06, 0x0E, 0x10, 0x16, 0x18, 0x1E, 0x20, 0x26, 0x28, 0x2E, 0x30, 0x36, 0x38, 0x3E, 0xC6, 0xCE, 0xD6, 0xDE, 0xE0, 0xE6,
    0xE8, 0xEE, 0xF0, 0xF6, 0xF8, 0xFE]

/-- The length a first byte gives (R105). -/
def lengthOf (op : Byte) : Nat := if op ∈ threeByte then 3 else if op = 0xCB ∨ op ∈ twoByte then 2 else 1

end Sys2Proof.Claim

/-- Derived from R105's lists: the first byte gives the length. -/
def Obligations.InstructionLength : Prop :=
  ∀ (op : Byte) (tail rest : List Byte) (i : Instr), decode (op :: tail) = .ok (i, rest) →
    (op :: tail).length = lengthOf op + rest.length

/-- The source's own examples and one word a family, decoded. -/
def Obligations.DecodeWords : Prop :=
  decodes [0x83] (.addAR .e) ∧ decodes [0xB8] (.cpR .b) ∧ decodes [0x18, 0xFE] (.jr 0xFE) ∧ decodes [0xED] .unassignedED ∧
  decodes [0xCB, 0x7C] (.bitR 7 .h) ∧ decodes [0xCB, 0x11] (.rlR .c) ∧ decodes [0xCB, 0x37] (.sllR .a) ∧
  decodes [0x21, 0x34, 0x12] (.ldRrNn .hl 0x1234) ∧ decodes [0xF5] (.pushQq .af) ∧ decodes [0x76] .halt ∧
  decodes [0x29] (.addHLRr .hl) ∧ decodes [0x35] .decHL ∧ decodes [0xCB, 0xCB] (.setR 1 .e)

/-! ## Memory -/

namespace Sys2Proof.Claim

/-- `MemRead(addr, 1)` by nibbles, case for case as R52 writes it. -/
def readByNibble (s : State) (A : Word) : Byte :=
  let n := A.toNat
  let top := n / 4096
  if top = 0 then (if s.inbios = true ∧ n < 0x0100 then s.bios.get n else s.rom.get n)
  else if top ≤ 0x7 then s.rom.get n
  else if top ≤ 0x9 then s.vram.get (n % 0x2000)
  else if top ≤ 0xB then s.eram.get (n % 0x2000)
  else if top ≤ 0xE then s.wram.get (n % 0x2000)
  else if n / 256 % 16 ≤ 0xD then s.wram.get (n % 0x2000)
  else if n / 256 % 16 = 0xE then (if n % 256 < 0xA0 then s.oam.get (n % 256) else 0)
  else if n / 128 % 2 = 1 then s.zram.get (n % 128) else 0

/-- `MemWrite(addr, 1, v)` by nibbles, case for case as R53 writes it. -/
def writeByNibble (s : State) (A : Word) (v : Byte) : State :=
  let n := A.toNat
  let top := n / 4096
  if top ≤ 0x7 then s
  else if top ≤ 0x9 then { s with vram := s.vram.set (n % 0x2000) v }
  else if top ≤ 0xB then { s with eram := s.eram.set (n % 0x2000) v }
  else if top ≤ 0xE then { s with wram := s.wram.set (n % 0x2000) v }
  else if n / 256 % 16 ≤ 0xD then { s with wram := s.wram.set (n % 0x2000) v }
  else if n / 256 % 16 = 0xE then (if n % 256 < 0xA0 then { s with oam := s.oam.set (n % 256) v } else s)
  else if n / 128 % 2 = 1 then { s with zram := s.zram.set (n % 128) v } else s

end Sys2Proof.Claim

/-- R52, R53: the decoder by nibbles, and an array's byte after a write of one. -/
def Obligations.MemoryDecoder : Prop :=
  (∀ (s : State) (A : Word), s.memRead A = readByNibble s A) ∧
  (∀ (s : State) (A : Word) (v : Byte), s.memWrite A v = writeByNibble s A v) ∧
  ∀ (mem : Memory) (i j : Nat) (v : Byte), (mem.set i v).get j = if j = i then v else mem.get j

/-- Derived from R53, R58, R60, R61, R63 and R70: a byte written reads back at its address and at its second address in the
shadow, nowhere else; a write to BIOS, ROM, the OAM tail or the I/O range changes no byte. -/
def Obligations.ReadAfterWrite : Prop :=
  ∀ (s : State) (A : Word) (v : Byte), stores s (s.memWrite A v) A v ∧
    (0xC000 ≤ A.toNat → A.toNat ≤ 0xDDFF →
      (s.memWrite A v).memRead (plus A 0x2000) = v ∧ (s.memWrite (plus A 0x2000) v).memRead A = v) ∧
    (stored A = false → s.memWrite A v = s)

/-- Derived. From R66 to R68: word accesses are two byte accesses, low byte at the lower address, modulo 65536. From R70 and from
R71, itself the spec's inference: a word written to storage reads back. -/
def Obligations.WordAccess : Prop :=
  ∀ (s : State) (A v : Word),
    s.memReadWord A = pair (s.memRead (plus A 1)) (s.memRead A) ∧
    s.memWriteWord A v = (s.memWrite A (low v)).memWrite (plus A 1) (high v) ∧
    (stored A = true → stored (plus A 1) = true → (s.memWriteWord A v).memReadWord A = v)

/-! ## Reset and the host's operations -/

/-- R360: power-on. The BIOS parameter is not state and not zeroed by power-on (what this model gives it is log entry 1,
DESIGN CHOICE), so it is left out here. -/
def Obligations.PowerOnState : Prop :=
  let s := State.reset
  (∀ r, s.reg r = 0) ∧ s.f = 0 ∧ s.pc = 0 ∧ s.sp = 0 ∧ s.ime = false ∧ s.m = 0 ∧ s.t = 0 ∧ s.clockM = 0 ∧ s.clockT = 0 ∧
    s.inbios = true ∧ s.halt = false ∧ s.stop = false ∧ s.fault = none ∧
    ∀ r : Region, r ≠ .bios → ∀ i, (s.array r).get i = 0

/-- R361: `reset()` from any state; derived from it and R362, R363: it is idempotent, and the machine then runs and fetches
`BIOS[0]` first. -/
def Obligations.HostReset : Prop :=
  ∀ s : State, let t := s.hostReset
    ((∀ r, t.reg r = 0) ∧ t.f = 0 ∧ t.pc = 0 ∧ t.sp = 0 ∧ t.ime = false ∧ t.m = 0 ∧ t.t = 0 ∧ t.clockM = 0 ∧ t.clockT = 0 ∧
      t.inbios = true ∧ t.halt = false ∧ t.stop = false ∧ t.fault = none ∧ sameArrays s t) ∧
    t.hostReset = t ∧ running t ∧ byteAt 0 t = s.bios.get 0

/-- R366: `loadRom` pads, cuts at 32768 and changes nothing but `ROM`; the bytes read back below 0x8000, and below 0x0100 only
with the latch clear. -/
def Obligations.LoadRom : Prop :=
  ∀ (s : State) (bytes : List Byte),
    (∀ i, i < 32768 → (s.loadRom bytes).rom.get i = if h : i < bytes.length then bytes[i] else 0) ∧
    { s.loadRom bytes with rom := s.rom } = s ∧
    ∀ (A : Word) (h : A.toNat < bytes.length), A.toNat < 32768 → (0x0100 ≤ A.toNat ∨ s.inbios = false) →
      (s.loadRom bytes).memRead A = bytes[A.toNat]

/-! ## The machine as a whole -/

/-- R40 at power-on, derived: the clause `memWf` is the canonical form of this model's arrays (log entry 9, DESIGN CHOICE), by
which each array has its size. -/
def Obligations.InvAtReset : Prop := State.reset.Inv

/-- R40 and R332's inference, derived: the invariant, with this model's canonical form of the arrays as its clause `memWf` (log
entry 9, DESIGN CHOICE), is kept by every step from every state, and a step always answers a next state. -/
def Obligations.StepKeepsInv : Prop :=
  ∀ s : State, s.Inv → ∃ t, step s = .next t ∧ t.Inv

/-- Derived from R30, R31, R33, R34, R63: the latch never comes back, `halt` and `stop` never go away, BIOS and ROM never
change; and where a step of a running machine ends at 0x0100 the latch is clear. -/
def Obligations.LatchesNeverRevert : Prop :=
  ∀ s t : State, step s = .next t →
    (s.inbios = false → t.inbios = false) ∧ (s.halt = true → t.halt = true) ∧ (s.stop = true → t.stop = true) ∧
    t.bios = s.bios ∧ t.rom = s.rom ∧ (running s → t.pc = 0x0100 → t.inbios = false)

/-- Derived from R26 and R28: no instruction but `POP AF` sets `H` or changes the storage bits of `f`. -/
def Obligations.HalfCarryAndStorageBits : Prop :=
  ∀ (i : Instr) (s t : State), i.wf = true → i ≠ .popAF → exec i s = .next t →
    (t.f.getLsbD 5 = true → s.f.getLsbD 5 = true) ∧ ∀ k, k < 4 → t.f.getLsbD k = s.f.getLsbD k

/-- Derived from R32 and R33: `ime` is written by `DI`, `EI`, `RETI` alone and `halt` by `HALT` alone. -/
def Obligations.WritersOfImeAndHalt : Prop :=
  ∀ (i : Instr) (s t : State), exec i s = .next t →
    (t.ime = if i = .di then false else if i = .ei ∨ i = .reti then true else s.ime) ∧
    (t.halt = if i = .halt then true else s.halt)

/-- Derived: R341, the spec's own inference from R340 and R32. No outcome depends on `ime`: two states that differ in it only
step to states that differ in it only. -/
def Obligations.ImeIsNeverRead : Prop :=
  ∀ (s t : State) (x : Bool), step s = .next t →
    ∃ u, step { s with ime := x } = .next u ∧ { u with ime := t.ime } = t ∧ stepStatus { s with ime := x } = stepStatus s
end

