-- ==== Sys2Proof/Laws/Decode.lean ====
section
/-! SUPPORT. The decoder as one case analysis on the first byte's row (30_encoding.md R90, R91): no row but the prefix's own
stands for the prefix. -/

namespace Sys2Proof

/-- Whatever its operands, the row is not the prefix's. -/
def Row.Whole : Row → Prop
  | .op i => i ≠ .cbPrefix
  | .opN k => ∀ n, k n ≠ .cbPrefix
  | .opNN k => ∀ nn, k nn ≠ .cbPrefix
  | .cb => True

theorem regOr_ne {code : Fin 8} {onReg : Reg8 → Instr} {onHL : Instr} (h : ∀ r, onReg r ≠ .cbPrefix)
    (h' : onHL ≠ .cbPrefix) : regOr code onReg onHL ≠ .cbPrefix := by
  unfold regOr
  cases regOf code with
  | some r => exact h r
  | none => exact h'

theorem primaryRow_whole (op : Byte) : (primaryRow op).Whole := by
  unfold primaryRow
  split
  · unfold rowX0
    dsimp only
    split <;> (try split) <;> simp [Row.Whole, regOr_ne]
  · unfold rowX1
    split <;> simp [Row.Whole]
  · unfold rowX2
    dsimp only
    split <;> simp [Row.Whole, regOr_ne]
  · unfold rowX3
    dsimp only
    split <;> (try split) <;> simp [Row.Whole]

/-- The four formats (R91), and what is missing when the bytes run out. -/
theorem decode_cons (op : Byte) (rest : List Byte) :
    decode (op :: rest) =
      match primaryRow op, rest with
      | .op i, rest => .ok (i, rest)
      | .cb, sub :: rest => .ok ((secondaryRow sub).toInstr, rest)
      | .cb, [] => .error .truncated
      | .opN k, n :: rest => .ok (k n, rest)
      | .opN _, [] => .error .truncated
      | .opNN k, lo :: hi :: rest => .ok (k (wordOf lo hi), rest)
      | .opNN _, _ => .error .truncated := by
  have hw := primaryRow_whole op
  unfold decode decodePrimary
  dsimp only
  generalize primaryRow op = row at hw ⊢
  cases row with
  | op i =>
    have : i ≠ .cbPrefix := hw
    cases i <;> first | rfl | exact absurd rfl this
  | cb => cases rest <;> rfl
  | opN k =>
    cases rest with
    | nil => rfl
    | cons n rest =>
      have := hw n
      simp only
      generalize k n = i at this ⊢
      cases i <;> first | rfl | exact absurd rfl this
  | opNN k =>
    match rest with
    | [] => rfl
    | [_] => rfl
    | lo :: hi :: rest =>
      have := hw (wordOf lo hi)
      simp only
      generalize k (wordOf lo hi) = i at this ⊢
      cases i <;> first | rfl | exact absurd rfl this

end Sys2Proof
end

