-- ==== Sys2Proof/Laws/State.lean ====
section
/-! SUPPORT. One simp lemma per field per shared update of State (10_state.md), so that no later proof unfolds a record update. -/

namespace Sys2Proof.Machine

/-! ### `State.cost` -/

@[simp] theorem State.cost_a (s : State) (n : Nat) : (s.cost n).a = s.a := rfl
@[simp] theorem State.cost_b (s : State) (n : Nat) : (s.cost n).b = s.b := rfl
@[simp] theorem State.cost_c (s : State) (n : Nat) : (s.cost n).c = s.c := rfl
@[simp] theorem State.cost_d (s : State) (n : Nat) : (s.cost n).d = s.d := rfl
@[simp] theorem State.cost_e (s : State) (n : Nat) : (s.cost n).e = s.e := rfl
@[simp] theorem State.cost_h (s : State) (n : Nat) : (s.cost n).h = s.h := rfl
@[simp] theorem State.cost_l (s : State) (n : Nat) : (s.cost n).l = s.l := rfl
@[simp] theorem State.cost_f (s : State) (n : Nat) : (s.cost n).f = s.f := rfl
@[simp] theorem State.cost_pc (s : State) (n : Nat) : (s.cost n).pc = s.pc := rfl
@[simp] theorem State.cost_sp (s : State) (n : Nat) : (s.cost n).sp = s.sp := rfl
@[simp] theorem State.cost_ime (s : State) (n : Nat) : (s.cost n).ime = s.ime := rfl
@[simp] theorem State.cost_inbios (s : State) (n : Nat) : (s.cost n).inbios = s.inbios := rfl
@[simp] theorem State.cost_halt (s : State) (n : Nat) : (s.cost n).halt = s.halt := rfl
@[simp] theorem State.cost_stop (s : State) (n : Nat) : (s.cost n).stop = s.stop := rfl
@[simp] theorem State.cost_fault (s : State) (n : Nat) : (s.cost n).fault = s.fault := rfl
@[simp] theorem State.cost_m (s : State) (n : Nat) : (s.cost n).m = n := rfl
@[simp] theorem State.cost_t (s : State) (n : Nat) : (s.cost n).t = 4 * n := rfl
@[simp] theorem State.cost_clockM (s : State) (n : Nat) : (s.cost n).clockM = s.clockM := rfl
@[simp] theorem State.cost_clockT (s : State) (n : Nat) : (s.cost n).clockT = s.clockT := rfl
@[simp] theorem State.cost_bios (s : State) (n : Nat) : (s.cost n).bios = s.bios := rfl
@[simp] theorem State.cost_rom (s : State) (n : Nat) : (s.cost n).rom = s.rom := rfl
@[simp] theorem State.cost_vram (s : State) (n : Nat) : (s.cost n).vram = s.vram := rfl
@[simp] theorem State.cost_eram (s : State) (n : Nat) : (s.cost n).eram = s.eram := rfl
@[simp] theorem State.cost_wram (s : State) (n : Nat) : (s.cost n).wram = s.wram := rfl
@[simp] theorem State.cost_oam (s : State) (n : Nat) : (s.cost n).oam = s.oam := rfl
@[simp] theorem State.cost_zram (s : State) (n : Nat) : (s.cost n).zram = s.zram := rfl

/-! ### `State.account` -/

@[simp] theorem State.account_a (s : State) : (s.account).a = s.a := rfl
@[simp] theorem State.account_b (s : State) : (s.account).b = s.b := rfl
@[simp] theorem State.account_c (s : State) : (s.account).c = s.c := rfl
@[simp] theorem State.account_d (s : State) : (s.account).d = s.d := rfl
@[simp] theorem State.account_e (s : State) : (s.account).e = s.e := rfl
@[simp] theorem State.account_h (s : State) : (s.account).h = s.h := rfl
@[simp] theorem State.account_l (s : State) : (s.account).l = s.l := rfl
@[simp] theorem State.account_f (s : State) : (s.account).f = s.f := rfl
@[simp] theorem State.account_pc (s : State) : (s.account).pc = s.pc := rfl
@[simp] theorem State.account_sp (s : State) : (s.account).sp = s.sp := rfl
@[simp] theorem State.account_ime (s : State) : (s.account).ime = s.ime := rfl
@[simp] theorem State.account_inbios (s : State) : (s.account).inbios = s.inbios := rfl
@[simp] theorem State.account_halt (s : State) : (s.account).halt = s.halt := rfl
@[simp] theorem State.account_stop (s : State) : (s.account).stop = s.stop := rfl
@[simp] theorem State.account_fault (s : State) : (s.account).fault = s.fault := rfl
@[simp] theorem State.account_m (s : State) : (s.account).m = s.m := rfl
@[simp] theorem State.account_t (s : State) : (s.account).t = s.t := rfl
@[simp] theorem State.account_clockM (s : State) : (s.account).clockM = s.clockM + s.m := rfl
@[simp] theorem State.account_clockT (s : State) : (s.account).clockT = s.clockT + s.t := rfl
@[simp] theorem State.account_bios (s : State) : (s.account).bios = s.bios := rfl
@[simp] theorem State.account_rom (s : State) : (s.account).rom = s.rom := rfl
@[simp] theorem State.account_vram (s : State) : (s.account).vram = s.vram := rfl
@[simp] theorem State.account_eram (s : State) : (s.account).eram = s.eram := rfl
@[simp] theorem State.account_wram (s : State) : (s.account).wram = s.wram := rfl
@[simp] theorem State.account_oam (s : State) : (s.account).oam = s.oam := rfl
@[simp] theorem State.account_zram (s : State) : (s.account).zram = s.zram := rfl

/-! ### `State.writePc` -/

@[simp] theorem State.writePc_a (s : State) (v : Word) : (s.writePc v).a = s.a := rfl
@[simp] theorem State.writePc_b (s : State) (v : Word) : (s.writePc v).b = s.b := rfl
@[simp] theorem State.writePc_c (s : State) (v : Word) : (s.writePc v).c = s.c := rfl
@[simp] theorem State.writePc_d (s : State) (v : Word) : (s.writePc v).d = s.d := rfl
@[simp] theorem State.writePc_e (s : State) (v : Word) : (s.writePc v).e = s.e := rfl
@[simp] theorem State.writePc_h (s : State) (v : Word) : (s.writePc v).h = s.h := rfl
@[simp] theorem State.writePc_l (s : State) (v : Word) : (s.writePc v).l = s.l := rfl
@[simp] theorem State.writePc_f (s : State) (v : Word) : (s.writePc v).f = s.f := rfl
@[simp] theorem State.writePc_pc (s : State) (v : Word) : (s.writePc v).pc = v := rfl
@[simp] theorem State.writePc_sp (s : State) (v : Word) : (s.writePc v).sp = s.sp := rfl
@[simp] theorem State.writePc_ime (s : State) (v : Word) : (s.writePc v).ime = s.ime := rfl
@[simp] theorem State.writePc_inbios (s : State) (v : Word) :
    (s.writePc v).inbios = (s.inbios && v != Config.latchAddress) := rfl
@[simp] theorem State.writePc_halt (s : State) (v : Word) : (s.writePc v).halt = s.halt := rfl
@[simp] theorem State.writePc_stop (s : State) (v : Word) : (s.writePc v).stop = s.stop := rfl
@[simp] theorem State.writePc_fault (s : State) (v : Word) : (s.writePc v).fault = s.fault := rfl
@[simp] theorem State.writePc_m (s : State) (v : Word) : (s.writePc v).m = s.m := rfl
@[simp] theorem State.writePc_t (s : State) (v : Word) : (s.writePc v).t = s.t := rfl
@[simp] theorem State.writePc_clockM (s : State) (v : Word) : (s.writePc v).clockM = s.clockM := rfl
@[simp] theorem State.writePc_clockT (s : State) (v : Word) : (s.writePc v).clockT = s.clockT := rfl
@[simp] theorem State.writePc_bios (s : State) (v : Word) : (s.writePc v).bios = s.bios := rfl
@[simp] theorem State.writePc_rom (s : State) (v : Word) : (s.writePc v).rom = s.rom := rfl
@[simp] theorem State.writePc_vram (s : State) (v : Word) : (s.writePc v).vram = s.vram := rfl
@[simp] theorem State.writePc_eram (s : State) (v : Word) : (s.writePc v).eram = s.eram := rfl
@[simp] theorem State.writePc_wram (s : State) (v : Word) : (s.writePc v).wram = s.wram := rfl
@[simp] theorem State.writePc_oam (s : State) (v : Word) : (s.writePc v).oam = s.oam := rfl
@[simp] theorem State.writePc_zram (s : State) (v : Word) : (s.writePc v).zram = s.zram := rfl

/-! ### `State.raiseFault` -/

@[simp] theorem State.raiseFault_a (s : State) (p : Bool) (o : Byte) (x : Word) : (s.raiseFault p o x).a = s.a := rfl
@[simp] theorem State.raiseFault_b (s : State) (p : Bool) (o : Byte) (x : Word) : (s.raiseFault p o x).b = s.b := rfl
@[simp] theorem State.raiseFault_c (s : State) (p : Bool) (o : Byte) (x : Word) : (s.raiseFault p o x).c = s.c := rfl
@[simp] theorem State.raiseFault_d (s : State) (p : Bool) (o : Byte) (x : Word) : (s.raiseFault p o x).d = s.d := rfl
@[simp] theorem State.raiseFault_e (s : State) (p : Bool) (o : Byte) (x : Word) : (s.raiseFault p o x).e = s.e := rfl
@[simp] theorem State.raiseFault_h (s : State) (p : Bool) (o : Byte) (x : Word) : (s.raiseFault p o x).h = s.h := rfl
@[simp] theorem State.raiseFault_l (s : State) (p : Bool) (o : Byte) (x : Word) : (s.raiseFault p o x).l = s.l := rfl
@[simp] theorem State.raiseFault_f (s : State) (p : Bool) (o : Byte) (x : Word) : (s.raiseFault p o x).f = s.f := rfl
@[simp] theorem State.raiseFault_pc (s : State) (p : Bool) (o : Byte) (x : Word) : (s.raiseFault p o x).pc = s.pc := rfl
@[simp] theorem State.raiseFault_sp (s : State) (p : Bool) (o : Byte) (x : Word) : (s.raiseFault p o x).sp = s.sp := rfl
@[simp] theorem State.raiseFault_ime (s : State) (p : Bool) (o : Byte) (x : Word) :
    (s.raiseFault p o x).ime = s.ime := rfl
@[simp] theorem State.raiseFault_inbios (s : State) (p : Bool) (o : Byte) (x : Word) :
    (s.raiseFault p o x).inbios = s.inbios := rfl
@[simp] theorem State.raiseFault_halt (s : State) (p : Bool) (o : Byte) (x : Word) :
    (s.raiseFault p o x).halt = s.halt := rfl
@[simp] theorem State.raiseFault_stop (s : State) (p : Bool) (o : Byte) (x : Word) :
    (s.raiseFault p o x).stop = true := rfl
@[simp] theorem State.raiseFault_fault (s : State) (p : Bool) (o : Byte) (x : Word) :
    (s.raiseFault p o x).fault = some ⟨p, o, x⟩ := rfl
@[simp] theorem State.raiseFault_m (s : State) (p : Bool) (o : Byte) (x : Word) : (s.raiseFault p o x).m = s.m := rfl
@[simp] theorem State.raiseFault_t (s : State) (p : Bool) (o : Byte) (x : Word) : (s.raiseFault p o x).t = s.t := rfl
@[simp] theorem State.raiseFault_clockM (s : State) (p : Bool) (o : Byte) (x : Word) :
    (s.raiseFault p o x).clockM = s.clockM := rfl
@[simp] theorem State.raiseFault_clockT (s : State) (p : Bool) (o : Byte) (x : Word) :
    (s.raiseFault p o x).clockT = s.clockT := rfl
@[simp] theorem State.raiseFault_bios (s : State) (p : Bool) (o : Byte) (x : Word) :
    (s.raiseFault p o x).bios = s.bios := rfl
@[simp] theorem State.raiseFault_rom (s : State) (p : Bool) (o : Byte) (x : Word) :
    (s.raiseFault p o x).rom = s.rom := rfl
@[simp] theorem State.raiseFault_vram (s : State) (p : Bool) (o : Byte) (x : Word) :
    (s.raiseFault p o x).vram = s.vram := rfl
@[simp] theorem State.raiseFault_eram (s : State) (p : Bool) (o : Byte) (x : Word) :
    (s.raiseFault p o x).eram = s.eram := rfl
@[simp] theorem State.raiseFault_wram (s : State) (p : Bool) (o : Byte) (x : Word) :
    (s.raiseFault p o x).wram = s.wram := rfl
@[simp] theorem State.raiseFault_oam (s : State) (p : Bool) (o : Byte) (x : Word) :
    (s.raiseFault p o x).oam = s.oam := rfl
@[simp] theorem State.raiseFault_zram (s : State) (p : Bool) (o : Byte) (x : Word) :
    (s.raiseFault p o x).zram = s.zram := rfl

/-! ### `State.setReg` -/

@[simp] theorem State.setReg_f (s : State) (r : Reg8) (v : Byte) : (s.setReg r v).f = s.f := by cases r <;> rfl
@[simp] theorem State.setReg_pc (s : State) (r : Reg8) (v : Byte) : (s.setReg r v).pc = s.pc := by cases r <;> rfl
@[simp] theorem State.setReg_sp (s : State) (r : Reg8) (v : Byte) : (s.setReg r v).sp = s.sp := by cases r <;> rfl
@[simp] theorem State.setReg_ime (s : State) (r : Reg8) (v : Byte) : (s.setReg r v).ime = s.ime := by cases r <;> rfl
@[simp] theorem State.setReg_inbios (s : State) (r : Reg8) (v : Byte) :
    (s.setReg r v).inbios = s.inbios := by cases r <;> rfl
@[simp] theorem State.setReg_halt (s : State) (r : Reg8) (v : Byte) : (s.setReg r v).halt = s.halt := by cases r <;> rfl
@[simp] theorem State.setReg_stop (s : State) (r : Reg8) (v : Byte) : (s.setReg r v).stop = s.stop := by cases r <;> rfl
@[simp] theorem State.setReg_fault (s : State) (r : Reg8) (v : Byte) :
    (s.setReg r v).fault = s.fault := by cases r <;> rfl
@[simp] theorem State.setReg_m (s : State) (r : Reg8) (v : Byte) : (s.setReg r v).m = s.m := by cases r <;> rfl
@[simp] theorem State.setReg_t (s : State) (r : Reg8) (v : Byte) : (s.setReg r v).t = s.t := by cases r <;> rfl
@[simp] theorem State.setReg_clockM (s : State) (r : Reg8) (v : Byte) :
    (s.setReg r v).clockM = s.clockM := by cases r <;> rfl
@[simp] theorem State.setReg_clockT (s : State) (r : Reg8) (v : Byte) :
    (s.setReg r v).clockT = s.clockT := by cases r <;> rfl
@[simp] theorem State.setReg_bios (s : State) (r : Reg8) (v : Byte) : (s.setReg r v).bios = s.bios := by cases r <;> rfl
@[simp] theorem State.setReg_rom (s : State) (r : Reg8) (v : Byte) : (s.setReg r v).rom = s.rom := by cases r <;> rfl
@[simp] theorem State.setReg_vram (s : State) (r : Reg8) (v : Byte) : (s.setReg r v).vram = s.vram := by cases r <;> rfl
@[simp] theorem State.setReg_eram (s : State) (r : Reg8) (v : Byte) : (s.setReg r v).eram = s.eram := by cases r <;> rfl
@[simp] theorem State.setReg_wram (s : State) (r : Reg8) (v : Byte) : (s.setReg r v).wram = s.wram := by cases r <;> rfl
@[simp] theorem State.setReg_oam (s : State) (r : Reg8) (v : Byte) : (s.setReg r v).oam = s.oam := by cases r <;> rfl
@[simp] theorem State.setReg_zram (s : State) (r : Reg8) (v : Byte) : (s.setReg r v).zram = s.zram := by cases r <;> rfl

theorem State.reg_setReg (s : State) (r q : Reg8) (v : Byte) :
    (s.setReg r v).reg q = if q = r then v else s.reg q := by
  cases r <;> cases q <;> rfl
@[simp] theorem State.reg_setReg_same (s : State) (r : Reg8) (v : Byte) : (s.setReg r v).reg r = v := by
  simp [State.reg_setReg]
theorem State.reg_setReg_ne (s : State) (r q : Reg8) (v : Byte) (h : q ≠ r) : (s.setReg r v).reg q = s.reg q := by
  simp [State.reg_setReg, h]

/-! ### `State.setBC` -/

@[simp] theorem State.setBC_a (s : State) (v : Word) : (s.setBC v).a = s.a := rfl
@[simp] theorem State.setBC_b (s : State) (v : Word) : (s.setBC v).b = hiByte v := rfl
@[simp] theorem State.setBC_c (s : State) (v : Word) : (s.setBC v).c = loByte v := rfl
@[simp] theorem State.setBC_d (s : State) (v : Word) : (s.setBC v).d = s.d := rfl
@[simp] theorem State.setBC_e (s : State) (v : Word) : (s.setBC v).e = s.e := rfl
@[simp] theorem State.setBC_h (s : State) (v : Word) : (s.setBC v).h = s.h := rfl
@[simp] theorem State.setBC_l (s : State) (v : Word) : (s.setBC v).l = s.l := rfl
@[simp] theorem State.setBC_f (s : State) (v : Word) : (s.setBC v).f = s.f := rfl
@[simp] theorem State.setBC_pc (s : State) (v : Word) : (s.setBC v).pc = s.pc := rfl
@[simp] theorem State.setBC_sp (s : State) (v : Word) : (s.setBC v).sp = s.sp := rfl
@[simp] theorem State.setBC_ime (s : State) (v : Word) : (s.setBC v).ime = s.ime := rfl
@[simp] theorem State.setBC_inbios (s : State) (v : Word) : (s.setBC v).inbios = s.inbios := rfl
@[simp] theorem State.setBC_halt (s : State) (v : Word) : (s.setBC v).halt = s.halt := rfl
@[simp] theorem State.setBC_stop (s : State) (v : Word) : (s.setBC v).stop = s.stop := rfl
@[simp] theorem State.setBC_fault (s : State) (v : Word) : (s.setBC v).fault = s.fault := rfl
@[simp] theorem State.setBC_m (s : State) (v : Word) : (s.setBC v).m = s.m := rfl
@[simp] theorem State.setBC_t (s : State) (v : Word) : (s.setBC v).t = s.t := rfl
@[simp] theorem State.setBC_clockM (s : State) (v : Word) : (s.setBC v).clockM = s.clockM := rfl
@[simp] theorem State.setBC_clockT (s : State) (v : Word) : (s.setBC v).clockT = s.clockT := rfl
@[simp] theorem State.setBC_bios (s : State) (v : Word) : (s.setBC v).bios = s.bios := rfl
@[simp] theorem State.setBC_rom (s : State) (v : Word) : (s.setBC v).rom = s.rom := rfl
@[simp] theorem State.setBC_vram (s : State) (v : Word) : (s.setBC v).vram = s.vram := rfl
@[simp] theorem State.setBC_eram (s : State) (v : Word) : (s.setBC v).eram = s.eram := rfl
@[simp] theorem State.setBC_wram (s : State) (v : Word) : (s.setBC v).wram = s.wram := rfl
@[simp] theorem State.setBC_oam (s : State) (v : Word) : (s.setBC v).oam = s.oam := rfl
@[simp] theorem State.setBC_zram (s : State) (v : Word) : (s.setBC v).zram = s.zram := rfl

/-! ### `State.setDE` -/

@[simp] theorem State.setDE_a (s : State) (v : Word) : (s.setDE v).a = s.a := rfl
@[simp] theorem State.setDE_b (s : State) (v : Word) : (s.setDE v).b = s.b := rfl
@[simp] theorem State.setDE_c (s : State) (v : Word) : (s.setDE v).c = s.c := rfl
@[simp] theorem State.setDE_d (s : State) (v : Word) : (s.setDE v).d = hiByte v := rfl
@[simp] theorem State.setDE_e (s : State) (v : Word) : (s.setDE v).e = loByte v := rfl
@[simp] theorem State.setDE_h (s : State) (v : Word) : (s.setDE v).h = s.h := rfl
@[simp] theorem State.setDE_l (s : State) (v : Word) : (s.setDE v).l = s.l := rfl
@[simp] theorem State.setDE_f (s : State) (v : Word) : (s.setDE v).f = s.f := rfl
@[simp] theorem State.setDE_pc (s : State) (v : Word) : (s.setDE v).pc = s.pc := rfl
@[simp] theorem State.setDE_sp (s : State) (v : Word) : (s.setDE v).sp = s.sp := rfl
@[simp] theorem State.setDE_ime (s : State) (v : Word) : (s.setDE v).ime = s.ime := rfl
@[simp] theorem State.setDE_inbios (s : State) (v : Word) : (s.setDE v).inbios = s.inbios := rfl
@[simp] theorem State.setDE_halt (s : State) (v : Word) : (s.setDE v).halt = s.halt := rfl
@[simp] theorem State.setDE_stop (s : State) (v : Word) : (s.setDE v).stop = s.stop := rfl
@[simp] theorem State.setDE_fault (s : State) (v : Word) : (s.setDE v).fault = s.fault := rfl
@[simp] theorem State.setDE_m (s : State) (v : Word) : (s.setDE v).m = s.m := rfl
@[simp] theorem State.setDE_t (s : State) (v : Word) : (s.setDE v).t = s.t := rfl
@[simp] theorem State.setDE_clockM (s : State) (v : Word) : (s.setDE v).clockM = s.clockM := rfl
@[simp] theorem State.setDE_clockT (s : State) (v : Word) : (s.setDE v).clockT = s.clockT := rfl
@[simp] theorem State.setDE_bios (s : State) (v : Word) : (s.setDE v).bios = s.bios := rfl
@[simp] theorem State.setDE_rom (s : State) (v : Word) : (s.setDE v).rom = s.rom := rfl
@[simp] theorem State.setDE_vram (s : State) (v : Word) : (s.setDE v).vram = s.vram := rfl
@[simp] theorem State.setDE_eram (s : State) (v : Word) : (s.setDE v).eram = s.eram := rfl
@[simp] theorem State.setDE_wram (s : State) (v : Word) : (s.setDE v).wram = s.wram := rfl
@[simp] theorem State.setDE_oam (s : State) (v : Word) : (s.setDE v).oam = s.oam := rfl
@[simp] theorem State.setDE_zram (s : State) (v : Word) : (s.setDE v).zram = s.zram := rfl

/-! ### `State.setHL` -/

@[simp] theorem State.setHL_a (s : State) (v : Word) : (s.setHL v).a = s.a := rfl
@[simp] theorem State.setHL_b (s : State) (v : Word) : (s.setHL v).b = s.b := rfl
@[simp] theorem State.setHL_c (s : State) (v : Word) : (s.setHL v).c = s.c := rfl
@[simp] theorem State.setHL_d (s : State) (v : Word) : (s.setHL v).d = s.d := rfl
@[simp] theorem State.setHL_e (s : State) (v : Word) : (s.setHL v).e = s.e := rfl
@[simp] theorem State.setHL_h (s : State) (v : Word) : (s.setHL v).h = hiByte v := rfl
@[simp] theorem State.setHL_l (s : State) (v : Word) : (s.setHL v).l = loByte v := rfl
@[simp] theorem State.setHL_f (s : State) (v : Word) : (s.setHL v).f = s.f := rfl
@[simp] theorem State.setHL_pc (s : State) (v : Word) : (s.setHL v).pc = s.pc := rfl
@[simp] theorem State.setHL_sp (s : State) (v : Word) : (s.setHL v).sp = s.sp := rfl
@[simp] theorem State.setHL_ime (s : State) (v : Word) : (s.setHL v).ime = s.ime := rfl
@[simp] theorem State.setHL_inbios (s : State) (v : Word) : (s.setHL v).inbios = s.inbios := rfl
@[simp] theorem State.setHL_halt (s : State) (v : Word) : (s.setHL v).halt = s.halt := rfl
@[simp] theorem State.setHL_stop (s : State) (v : Word) : (s.setHL v).stop = s.stop := rfl
@[simp] theorem State.setHL_fault (s : State) (v : Word) : (s.setHL v).fault = s.fault := rfl
@[simp] theorem State.setHL_m (s : State) (v : Word) : (s.setHL v).m = s.m := rfl
@[simp] theorem State.setHL_t (s : State) (v : Word) : (s.setHL v).t = s.t := rfl
@[simp] theorem State.setHL_clockM (s : State) (v : Word) : (s.setHL v).clockM = s.clockM := rfl
@[simp] theorem State.setHL_clockT (s : State) (v : Word) : (s.setHL v).clockT = s.clockT := rfl
@[simp] theorem State.setHL_bios (s : State) (v : Word) : (s.setHL v).bios = s.bios := rfl
@[simp] theorem State.setHL_rom (s : State) (v : Word) : (s.setHL v).rom = s.rom := rfl
@[simp] theorem State.setHL_vram (s : State) (v : Word) : (s.setHL v).vram = s.vram := rfl
@[simp] theorem State.setHL_eram (s : State) (v : Word) : (s.setHL v).eram = s.eram := rfl
@[simp] theorem State.setHL_wram (s : State) (v : Word) : (s.setHL v).wram = s.wram := rfl
@[simp] theorem State.setHL_oam (s : State) (v : Word) : (s.setHL v).oam = s.oam := rfl
@[simp] theorem State.setHL_zram (s : State) (v : Word) : (s.setHL v).zram = s.zram := rfl

/-! ### `State.setAF` -/

@[simp] theorem State.setAF_a (s : State) (v : Word) : (s.setAF v).a = hiByte v := rfl
@[simp] theorem State.setAF_b (s : State) (v : Word) : (s.setAF v).b = s.b := rfl
@[simp] theorem State.setAF_c (s : State) (v : Word) : (s.setAF v).c = s.c := rfl
@[simp] theorem State.setAF_d (s : State) (v : Word) : (s.setAF v).d = s.d := rfl
@[simp] theorem State.setAF_e (s : State) (v : Word) : (s.setAF v).e = s.e := rfl
@[simp] theorem State.setAF_h (s : State) (v : Word) : (s.setAF v).h = s.h := rfl
@[simp] theorem State.setAF_l (s : State) (v : Word) : (s.setAF v).l = s.l := rfl
@[simp] theorem State.setAF_f (s : State) (v : Word) : (s.setAF v).f = loByte v := rfl
@[simp] theorem State.setAF_pc (s : State) (v : Word) : (s.setAF v).pc = s.pc := rfl
@[simp] theorem State.setAF_sp (s : State) (v : Word) : (s.setAF v).sp = s.sp := rfl
@[simp] theorem State.setAF_ime (s : State) (v : Word) : (s.setAF v).ime = s.ime := rfl
@[simp] theorem State.setAF_inbios (s : State) (v : Word) : (s.setAF v).inbios = s.inbios := rfl
@[simp] theorem State.setAF_halt (s : State) (v : Word) : (s.setAF v).halt = s.halt := rfl
@[simp] theorem State.setAF_stop (s : State) (v : Word) : (s.setAF v).stop = s.stop := rfl
@[simp] theorem State.setAF_fault (s : State) (v : Word) : (s.setAF v).fault = s.fault := rfl
@[simp] theorem State.setAF_m (s : State) (v : Word) : (s.setAF v).m = s.m := rfl
@[simp] theorem State.setAF_t (s : State) (v : Word) : (s.setAF v).t = s.t := rfl
@[simp] theorem State.setAF_clockM (s : State) (v : Word) : (s.setAF v).clockM = s.clockM := rfl
@[simp] theorem State.setAF_clockT (s : State) (v : Word) : (s.setAF v).clockT = s.clockT := rfl
@[simp] theorem State.setAF_bios (s : State) (v : Word) : (s.setAF v).bios = s.bios := rfl
@[simp] theorem State.setAF_rom (s : State) (v : Word) : (s.setAF v).rom = s.rom := rfl
@[simp] theorem State.setAF_vram (s : State) (v : Word) : (s.setAF v).vram = s.vram := rfl
@[simp] theorem State.setAF_eram (s : State) (v : Word) : (s.setAF v).eram = s.eram := rfl
@[simp] theorem State.setAF_wram (s : State) (v : Word) : (s.setAF v).wram = s.wram := rfl
@[simp] theorem State.setAF_oam (s : State) (v : Word) : (s.setAF v).oam = s.oam := rfl
@[simp] theorem State.setAF_zram (s : State) (v : Word) : (s.setAF v).zram = s.zram := rfl

/-! ### `State.setRR` -/

@[simp] theorem State.setRR_a (s : State) (p : RR) (v : Word) : (s.setRR p v).a = s.a := by cases p <;> rfl
@[simp] theorem State.setRR_f (s : State) (p : RR) (v : Word) : (s.setRR p v).f = s.f := by cases p <;> rfl
@[simp] theorem State.setRR_pc (s : State) (p : RR) (v : Word) : (s.setRR p v).pc = s.pc := by cases p <;> rfl
@[simp] theorem State.setRR_ime (s : State) (p : RR) (v : Word) : (s.setRR p v).ime = s.ime := by cases p <;> rfl
@[simp] theorem State.setRR_inbios (s : State) (p : RR) (v : Word) :
    (s.setRR p v).inbios = s.inbios := by cases p <;> rfl
@[simp] theorem State.setRR_halt (s : State) (p : RR) (v : Word) : (s.setRR p v).halt = s.halt := by cases p <;> rfl
@[simp] theorem State.setRR_stop (s : State) (p : RR) (v : Word) : (s.setRR p v).stop = s.stop := by cases p <;> rfl
@[simp] theorem State.setRR_fault (s : State) (p : RR) (v : Word) : (s.setRR p v).fault = s.fault := by cases p <;> rfl
@[simp] theorem State.setRR_m (s : State) (p : RR) (v : Word) : (s.setRR p v).m = s.m := by cases p <;> rfl
@[simp] theorem State.setRR_t (s : State) (p : RR) (v : Word) : (s.setRR p v).t = s.t := by cases p <;> rfl
@[simp] theorem State.setRR_clockM (s : State) (p : RR) (v : Word) :
    (s.setRR p v).clockM = s.clockM := by cases p <;> rfl
@[simp] theorem State.setRR_clockT (s : State) (p : RR) (v : Word) :
    (s.setRR p v).clockT = s.clockT := by cases p <;> rfl
@[simp] theorem State.setRR_bios (s : State) (p : RR) (v : Word) : (s.setRR p v).bios = s.bios := by cases p <;> rfl
@[simp] theorem State.setRR_rom (s : State) (p : RR) (v : Word) : (s.setRR p v).rom = s.rom := by cases p <;> rfl
@[simp] theorem State.setRR_vram (s : State) (p : RR) (v : Word) : (s.setRR p v).vram = s.vram := by cases p <;> rfl
@[simp] theorem State.setRR_eram (s : State) (p : RR) (v : Word) : (s.setRR p v).eram = s.eram := by cases p <;> rfl
@[simp] theorem State.setRR_wram (s : State) (p : RR) (v : Word) : (s.setRR p v).wram = s.wram := by cases p <;> rfl
@[simp] theorem State.setRR_oam (s : State) (p : RR) (v : Word) : (s.setRR p v).oam = s.oam := by cases p <;> rfl
@[simp] theorem State.setRR_zram (s : State) (p : RR) (v : Word) : (s.setRR p v).zram = s.zram := by cases p <;> rfl

/-! ### `State.setQQ` -/

@[simp] theorem State.setQQ_pc (s : State) (q : QQ) (v : Word) : (s.setQQ q v).pc = s.pc := by cases q <;> rfl
@[simp] theorem State.setQQ_sp (s : State) (q : QQ) (v : Word) : (s.setQQ q v).sp = s.sp := by cases q <;> rfl
@[simp] theorem State.setQQ_ime (s : State) (q : QQ) (v : Word) : (s.setQQ q v).ime = s.ime := by cases q <;> rfl
@[simp] theorem State.setQQ_inbios (s : State) (q : QQ) (v : Word) :
    (s.setQQ q v).inbios = s.inbios := by cases q <;> rfl
@[simp] theorem State.setQQ_halt (s : State) (q : QQ) (v : Word) : (s.setQQ q v).halt = s.halt := by cases q <;> rfl
@[simp] theorem State.setQQ_stop (s : State) (q : QQ) (v : Word) : (s.setQQ q v).stop = s.stop := by cases q <;> rfl
@[simp] theorem State.setQQ_fault (s : State) (q : QQ) (v : Word) : (s.setQQ q v).fault = s.fault := by cases q <;> rfl
@[simp] theorem State.setQQ_m (s : State) (q : QQ) (v : Word) : (s.setQQ q v).m = s.m := by cases q <;> rfl
@[simp] theorem State.setQQ_t (s : State) (q : QQ) (v : Word) : (s.setQQ q v).t = s.t := by cases q <;> rfl
@[simp] theorem State.setQQ_clockM (s : State) (q : QQ) (v : Word) :
    (s.setQQ q v).clockM = s.clockM := by cases q <;> rfl
@[simp] theorem State.setQQ_clockT (s : State) (q : QQ) (v : Word) :
    (s.setQQ q v).clockT = s.clockT := by cases q <;> rfl
@[simp] theorem State.setQQ_bios (s : State) (q : QQ) (v : Word) : (s.setQQ q v).bios = s.bios := by cases q <;> rfl
@[simp] theorem State.setQQ_rom (s : State) (q : QQ) (v : Word) : (s.setQQ q v).rom = s.rom := by cases q <;> rfl
@[simp] theorem State.setQQ_vram (s : State) (q : QQ) (v : Word) : (s.setQQ q v).vram = s.vram := by cases q <;> rfl
@[simp] theorem State.setQQ_eram (s : State) (q : QQ) (v : Word) : (s.setQQ q v).eram = s.eram := by cases q <;> rfl
@[simp] theorem State.setQQ_wram (s : State) (q : QQ) (v : Word) : (s.setQQ q v).wram = s.wram := by cases q <;> rfl
@[simp] theorem State.setQQ_oam (s : State) (q : QQ) (v : Word) : (s.setQQ q v).oam = s.oam := by cases q <;> rfl
@[simp] theorem State.setQQ_zram (s : State) (q : QQ) (v : Word) : (s.setQQ q v).zram = s.zram := by cases q <;> rfl

/-! ### `State.setArray`, `State.array` -/

@[simp] theorem State.setArray_a (s : State) (r : Region) (x : Memory) : (s.setArray r x).a = s.a := by cases r <;> rfl
@[simp] theorem State.setArray_b (s : State) (r : Region) (x : Memory) : (s.setArray r x).b = s.b := by cases r <;> rfl
@[simp] theorem State.setArray_c (s : State) (r : Region) (x : Memory) : (s.setArray r x).c = s.c := by cases r <;> rfl
@[simp] theorem State.setArray_d (s : State) (r : Region) (x : Memory) : (s.setArray r x).d = s.d := by cases r <;> rfl
@[simp] theorem State.setArray_e (s : State) (r : Region) (x : Memory) : (s.setArray r x).e = s.e := by cases r <;> rfl
@[simp] theorem State.setArray_h (s : State) (r : Region) (x : Memory) : (s.setArray r x).h = s.h := by cases r <;> rfl
@[simp] theorem State.setArray_l (s : State) (r : Region) (x : Memory) : (s.setArray r x).l = s.l := by cases r <;> rfl
@[simp] theorem State.setArray_f (s : State) (r : Region) (x : Memory) : (s.setArray r x).f = s.f := by cases r <;> rfl
@[simp] theorem State.setArray_pc (s : State) (r : Region) (x : Memory) :
    (s.setArray r x).pc = s.pc := by cases r <;> rfl
@[simp] theorem State.setArray_sp (s : State) (r : Region) (x : Memory) :
    (s.setArray r x).sp = s.sp := by cases r <;> rfl
@[simp] theorem State.setArray_ime (s : State) (r : Region) (x : Memory) :
    (s.setArray r x).ime = s.ime := by cases r <;> rfl
@[simp] theorem State.setArray_inbios (s : State) (r : Region) (x : Memory) :
    (s.setArray r x).inbios = s.inbios := by cases r <;> rfl
@[simp] theorem State.setArray_halt (s : State) (r : Region) (x : Memory) :
    (s.setArray r x).halt = s.halt := by cases r <;> rfl
@[simp] theorem State.setArray_stop (s : State) (r : Region) (x : Memory) :
    (s.setArray r x).stop = s.stop := by cases r <;> rfl
@[simp] theorem State.setArray_fault (s : State) (r : Region) (x : Memory) :
    (s.setArray r x).fault = s.fault := by cases r <;> rfl
@[simp] theorem State.setArray_m (s : State) (r : Region) (x : Memory) : (s.setArray r x).m = s.m := by cases r <;> rfl
@[simp] theorem State.setArray_t (s : State) (r : Region) (x : Memory) : (s.setArray r x).t = s.t := by cases r <;> rfl
@[simp] theorem State.setArray_clockM (s : State) (r : Region) (x : Memory) :
    (s.setArray r x).clockM = s.clockM := by cases r <;> rfl
@[simp] theorem State.setArray_clockT (s : State) (r : Region) (x : Memory) :
    (s.setArray r x).clockT = s.clockT := by cases r <;> rfl
theorem State.array_setArray (s : State) (r q : Region) (x : Memory) :
    (s.setArray r x).array q = if q = r then x else s.array q := by
  cases r <;> cases q <;> rfl

/-! ### `State.memWrite` -/

/-- Everything a byte write can change: one of the five writable arrays. -/
theorem State.memWrite_shape (s : State) (A : Word) (v : Byte) : ∃ v1 v2 v3 v4 v5,
    s.memWrite A v = { s with vram := v1, eram := v2, wram := v3, oam := v4, zram := v5 } := by
  unfold State.memWrite State.poke
  cases locate s.inbios A with
  | absent => exact ⟨s.vram, s.eram, s.wram, s.oam, s.zram, rfl⟩
  | cell r i =>
    cases r
    · exact ⟨s.vram, s.eram, s.wram, s.oam, s.zram, rfl⟩
    · exact ⟨s.vram, s.eram, s.wram, s.oam, s.zram, rfl⟩
    · exact ⟨_, s.eram, s.wram, s.oam, s.zram, rfl⟩
    · exact ⟨s.vram, _, s.wram, s.oam, s.zram, rfl⟩
    · exact ⟨s.vram, s.eram, _, s.oam, s.zram, rfl⟩
    · exact ⟨s.vram, s.eram, s.wram, _, s.zram, rfl⟩
    · exact ⟨s.vram, s.eram, s.wram, s.oam, _, rfl⟩

@[simp] theorem State.memWrite_a (s : State) (A : Word) (v : Byte) :
    (s.memWrite A v).a = s.a := by
  obtain ⟨_, _, _, _, _, h⟩ := s.memWrite_shape A v; rw [h]
@[simp] theorem State.memWrite_b (s : State) (A : Word) (v : Byte) :
    (s.memWrite A v).b = s.b := by
  obtain ⟨_, _, _, _, _, h⟩ := s.memWrite_shape A v; rw [h]
@[simp] theorem State.memWrite_c (s : State) (A : Word) (v : Byte) :
    (s.memWrite A v).c = s.c := by
  obtain ⟨_, _, _, _, _, h⟩ := s.memWrite_shape A v; rw [h]
@[simp] theorem State.memWrite_d (s : State) (A : Word) (v : Byte) :
    (s.memWrite A v).d = s.d := by
  obtain ⟨_, _, _, _, _, h⟩ := s.memWrite_shape A v; rw [h]
@[simp] theorem State.memWrite_e (s : State) (A : Word) (v : Byte) :
    (s.memWrite A v).e = s.e := by
  obtain ⟨_, _, _, _, _, h⟩ := s.memWrite_shape A v; rw [h]
@[simp] theorem State.memWrite_h (s : State) (A : Word) (v : Byte) :
    (s.memWrite A v).h = s.h := by
  obtain ⟨_, _, _, _, _, h⟩ := s.memWrite_shape A v; rw [h]
@[simp] theorem State.memWrite_l (s : State) (A : Word) (v : Byte) :
    (s.memWrite A v).l = s.l := by
  obtain ⟨_, _, _, _, _, h⟩ := s.memWrite_shape A v; rw [h]
@[simp] theorem State.memWrite_f (s : State) (A : Word) (v : Byte) :
    (s.memWrite A v).f = s.f := by
  obtain ⟨_, _, _, _, _, h⟩ := s.memWrite_shape A v; rw [h]
@[simp] theorem State.memWrite_pc (s : State) (A : Word) (v : Byte) :
    (s.memWrite A v).pc = s.pc := by
  obtain ⟨_, _, _, _, _, h⟩ := s.memWrite_shape A v; rw [h]
@[simp] theorem State.memWrite_sp (s : State) (A : Word) (v : Byte) :
    (s.memWrite A v).sp = s.sp := by
  obtain ⟨_, _, _, _, _, h⟩ := s.memWrite_shape A v; rw [h]
@[simp] theorem State.memWrite_ime (s : State) (A : Word) (v : Byte) :
    (s.memWrite A v).ime = s.ime := by
  obtain ⟨_, _, _, _, _, h⟩ := s.memWrite_shape A v; rw [h]
@[simp] theorem State.memWrite_inbios (s : State) (A : Word) (v : Byte) :
    (s.memWrite A v).inbios = s.inbios := by
  obtain ⟨_, _, _, _, _, h⟩ := s.memWrite_shape A v; rw [h]
@[simp] theorem State.memWrite_halt (s : State) (A : Word) (v : Byte) :
    (s.memWrite A v).halt = s.halt := by
  obtain ⟨_, _, _, _, _, h⟩ := s.memWrite_shape A v; rw [h]
@[simp] theorem State.memWrite_stop (s : State) (A : Word) (v : Byte) :
    (s.memWrite A v).stop = s.stop := by
  obtain ⟨_, _, _, _, _, h⟩ := s.memWrite_shape A v; rw [h]
@[simp] theorem State.memWrite_fault (s : State) (A : Word) (v : Byte) :
    (s.memWrite A v).fault = s.fault := by
  obtain ⟨_, _, _, _, _, h⟩ := s.memWrite_shape A v; rw [h]
@[simp] theorem State.memWrite_m (s : State) (A : Word) (v : Byte) :
    (s.memWrite A v).m = s.m := by
  obtain ⟨_, _, _, _, _, h⟩ := s.memWrite_shape A v; rw [h]
@[simp] theorem State.memWrite_t (s : State) (A : Word) (v : Byte) :
    (s.memWrite A v).t = s.t := by
  obtain ⟨_, _, _, _, _, h⟩ := s.memWrite_shape A v; rw [h]
@[simp] theorem State.memWrite_clockM (s : State) (A : Word) (v : Byte) :
    (s.memWrite A v).clockM = s.clockM := by
  obtain ⟨_, _, _, _, _, h⟩ := s.memWrite_shape A v; rw [h]
@[simp] theorem State.memWrite_clockT (s : State) (A : Word) (v : Byte) :
    (s.memWrite A v).clockT = s.clockT := by
  obtain ⟨_, _, _, _, _, h⟩ := s.memWrite_shape A v; rw [h]
@[simp] theorem State.memWrite_bios (s : State) (A : Word) (v : Byte) :
    (s.memWrite A v).bios = s.bios := by
  obtain ⟨_, _, _, _, _, h⟩ := s.memWrite_shape A v; rw [h]
@[simp] theorem State.memWrite_rom (s : State) (A : Word) (v : Byte) :
    (s.memWrite A v).rom = s.rom := by
  obtain ⟨_, _, _, _, _, h⟩ := s.memWrite_shape A v; rw [h]

/-! ### `State.push16`, `State.pop16`, `State.fetch8` -/

@[simp] theorem State.push16_sp (s : State) (v : Word) : (s.push16 v).sp = s.sp - 1 - 1 := by simp [State.push16]
@[simp] theorem State.push16_a (s : State) (v : Word) : (s.push16 v).a = s.a := by simp [State.push16]
@[simp] theorem State.push16_b (s : State) (v : Word) : (s.push16 v).b = s.b := by simp [State.push16]
@[simp] theorem State.push16_c (s : State) (v : Word) : (s.push16 v).c = s.c := by simp [State.push16]
@[simp] theorem State.push16_d (s : State) (v : Word) : (s.push16 v).d = s.d := by simp [State.push16]
@[simp] theorem State.push16_e (s : State) (v : Word) : (s.push16 v).e = s.e := by simp [State.push16]
@[simp] theorem State.push16_h (s : State) (v : Word) : (s.push16 v).h = s.h := by simp [State.push16]
@[simp] theorem State.push16_l (s : State) (v : Word) : (s.push16 v).l = s.l := by simp [State.push16]
@[simp] theorem State.push16_f (s : State) (v : Word) : (s.push16 v).f = s.f := by simp [State.push16]
@[simp] theorem State.push16_pc (s : State) (v : Word) : (s.push16 v).pc = s.pc := by simp [State.push16]
@[simp] theorem State.push16_ime (s : State) (v : Word) : (s.push16 v).ime = s.ime := by simp [State.push16]
@[simp] theorem State.push16_inbios (s : State) (v : Word) : (s.push16 v).inbios = s.inbios := by simp [State.push16]
@[simp] theorem State.push16_halt (s : State) (v : Word) : (s.push16 v).halt = s.halt := by simp [State.push16]
@[simp] theorem State.push16_stop (s : State) (v : Word) : (s.push16 v).stop = s.stop := by simp [State.push16]
@[simp] theorem State.push16_fault (s : State) (v : Word) : (s.push16 v).fault = s.fault := by simp [State.push16]
@[simp] theorem State.push16_m (s : State) (v : Word) : (s.push16 v).m = s.m := by simp [State.push16]
@[simp] theorem State.push16_t (s : State) (v : Word) : (s.push16 v).t = s.t := by simp [State.push16]
@[simp] theorem State.push16_clockM (s : State) (v : Word) : (s.push16 v).clockM = s.clockM := by simp [State.push16]
@[simp] theorem State.push16_clockT (s : State) (v : Word) : (s.push16 v).clockT = s.clockT := by simp [State.push16]
@[simp] theorem State.push16_bios (s : State) (v : Word) : (s.push16 v).bios = s.bios := by simp [State.push16]
@[simp] theorem State.push16_rom (s : State) (v : Word) : (s.push16 v).rom = s.rom := by simp [State.push16]
@[simp] theorem State.pop16_sp (s : State) : s.pop16.2.sp = s.sp + 1 + 1 := rfl
@[simp] theorem State.pop16_a (s : State) : s.pop16.2.a = s.a := rfl
@[simp] theorem State.pop16_b (s : State) : s.pop16.2.b = s.b := rfl
@[simp] theorem State.pop16_c (s : State) : s.pop16.2.c = s.c := rfl
@[simp] theorem State.pop16_d (s : State) : s.pop16.2.d = s.d := rfl
@[simp] theorem State.pop16_e (s : State) : s.pop16.2.e = s.e := rfl
@[simp] theorem State.pop16_h (s : State) : s.pop16.2.h = s.h := rfl
@[simp] theorem State.pop16_l (s : State) : s.pop16.2.l = s.l := rfl
@[simp] theorem State.pop16_f (s : State) : s.pop16.2.f = s.f := rfl
@[simp] theorem State.pop16_pc (s : State) : s.pop16.2.pc = s.pc := rfl
@[simp] theorem State.pop16_ime (s : State) : s.pop16.2.ime = s.ime := rfl
@[simp] theorem State.pop16_inbios (s : State) : s.pop16.2.inbios = s.inbios := rfl
@[simp] theorem State.pop16_halt (s : State) : s.pop16.2.halt = s.halt := rfl
@[simp] theorem State.pop16_stop (s : State) : s.pop16.2.stop = s.stop := rfl
@[simp] theorem State.pop16_fault (s : State) : s.pop16.2.fault = s.fault := rfl
@[simp] theorem State.pop16_m (s : State) : s.pop16.2.m = s.m := rfl
@[simp] theorem State.pop16_t (s : State) : s.pop16.2.t = s.t := rfl
@[simp] theorem State.pop16_clockM (s : State) : s.pop16.2.clockM = s.clockM := rfl
@[simp] theorem State.pop16_clockT (s : State) : s.pop16.2.clockT = s.clockT := rfl
@[simp] theorem State.pop16_bios (s : State) : s.pop16.2.bios = s.bios := rfl
@[simp] theorem State.pop16_rom (s : State) : s.pop16.2.rom = s.rom := rfl
@[simp] theorem State.pop16_vram (s : State) : s.pop16.2.vram = s.vram := rfl
@[simp] theorem State.pop16_eram (s : State) : s.pop16.2.eram = s.eram := rfl
@[simp] theorem State.pop16_wram (s : State) : s.pop16.2.wram = s.wram := rfl
@[simp] theorem State.pop16_oam (s : State) : s.pop16.2.oam = s.oam := rfl
@[simp] theorem State.pop16_zram (s : State) : s.pop16.2.zram = s.zram := rfl
@[simp] theorem State.fetch8_fst (s : State) : s.fetch8.1 = s.memRead s.pc := rfl
@[simp] theorem State.fetch8_snd (s : State) : s.fetch8.2 = s.writePc (s.pc + 1) := rfl

/-! ### The shared read-modify-write operations: what none of them touches -/

@[simp] theorem State.alu_pc (s : State) (op : Byte → Byte → Byte → Byte × Byte) (v : Byte) : (s.alu op v).pc = s.pc := rfl
@[simp] theorem State.alu_sp (s : State) (op : Byte → Byte → Byte → Byte × Byte) (v : Byte) : (s.alu op v).sp = s.sp := rfl
@[simp] theorem State.alu_ime (s : State) (op : Byte → Byte → Byte → Byte × Byte) (v : Byte) : (s.alu op v).ime = s.ime := rfl
@[simp] theorem State.alu_inbios (s : State) (op : Byte → Byte → Byte → Byte × Byte) (v : Byte) : (s.alu op v).inbios = s.inbios := rfl
@[simp] theorem State.alu_halt (s : State) (op : Byte → Byte → Byte → Byte × Byte) (v : Byte) : (s.alu op v).halt = s.halt := rfl
@[simp] theorem State.alu_stop (s : State) (op : Byte → Byte → Byte → Byte × Byte) (v : Byte) : (s.alu op v).stop = s.stop := rfl
@[simp] theorem State.alu_fault (s : State) (op : Byte → Byte → Byte → Byte × Byte) (v : Byte) : (s.alu op v).fault = s.fault := rfl
@[simp] theorem State.alu_m (s : State) (op : Byte → Byte → Byte → Byte × Byte) (v : Byte) : (s.alu op v).m = s.m := rfl
@[simp] theorem State.alu_t (s : State) (op : Byte → Byte → Byte → Byte × Byte) (v : Byte) : (s.alu op v).t = s.t := rfl
@[simp] theorem State.alu_clockM (s : State) (op : Byte → Byte → Byte → Byte × Byte) (v : Byte) : (s.alu op v).clockM = s.clockM := rfl
@[simp] theorem State.alu_clockT (s : State) (op : Byte → Byte → Byte → Byte × Byte) (v : Byte) : (s.alu op v).clockT = s.clockT := rfl
@[simp] theorem State.alu_bios (s : State) (op : Byte → Byte → Byte → Byte × Byte) (v : Byte) : (s.alu op v).bios = s.bios := rfl
@[simp] theorem State.alu_rom (s : State) (op : Byte → Byte → Byte → Byte × Byte) (v : Byte) : (s.alu op v).rom = s.rom := rfl

@[simp] theorem State.rotateA_pc (s : State) (op : Byte → Bool → Byte × Bool) : (s.rotateA op).pc = s.pc := rfl
@[simp] theorem State.rotateA_sp (s : State) (op : Byte → Bool → Byte × Bool) : (s.rotateA op).sp = s.sp := rfl
@[simp] theorem State.rotateA_ime (s : State) (op : Byte → Bool → Byte × Bool) : (s.rotateA op).ime = s.ime := rfl
@[simp] theorem State.rotateA_inbios (s : State) (op : Byte → Bool → Byte × Bool) : (s.rotateA op).inbios = s.inbios := rfl
@[simp] theorem State.rotateA_halt (s : State) (op : Byte → Bool → Byte × Bool) : (s.rotateA op).halt = s.halt := rfl
@[simp] theorem State.rotateA_stop (s : State) (op : Byte → Bool → Byte × Bool) : (s.rotateA op).stop = s.stop := rfl
@[simp] theorem State.rotateA_fault (s : State) (op : Byte → Bool → Byte × Bool) : (s.rotateA op).fault = s.fault := rfl
@[simp] theorem State.rotateA_m (s : State) (op : Byte → Bool → Byte × Bool) : (s.rotateA op).m = s.m := rfl
@[simp] theorem State.rotateA_t (s : State) (op : Byte → Bool → Byte × Bool) : (s.rotateA op).t = s.t := rfl
@[simp] theorem State.rotateA_clockM (s : State) (op : Byte → Bool → Byte × Bool) : (s.rotateA op).clockM = s.clockM := rfl
@[simp] theorem State.rotateA_clockT (s : State) (op : Byte → Bool → Byte × Bool) : (s.rotateA op).clockT = s.clockT := rfl
@[simp] theorem State.rotateA_bios (s : State) (op : Byte → Bool → Byte × Bool) : (s.rotateA op).bios = s.bios := rfl
@[simp] theorem State.rotateA_rom (s : State) (op : Byte → Bool → Byte × Bool) : (s.rotateA op).rom = s.rom := rfl

@[simp] theorem State.onReg_pc (s : State) (r : Reg8) (op : Byte → Byte → Byte × Byte) : (s.onReg r op).pc = s.pc := by cases r <;> rfl
@[simp] theorem State.onReg_sp (s : State) (r : Reg8) (op : Byte → Byte → Byte × Byte) : (s.onReg r op).sp = s.sp := by cases r <;> rfl
@[simp] theorem State.onReg_ime (s : State) (r : Reg8) (op : Byte → Byte → Byte × Byte) : (s.onReg r op).ime = s.ime := by cases r <;> rfl
@[simp] theorem State.onReg_inbios (s : State) (r : Reg8) (op : Byte → Byte → Byte × Byte) : (s.onReg r op).inbios = s.inbios := by cases r <;> rfl
@[simp] theorem State.onReg_halt (s : State) (r : Reg8) (op : Byte → Byte → Byte × Byte) : (s.onReg r op).halt = s.halt := by cases r <;> rfl
@[simp] theorem State.onReg_stop (s : State) (r : Reg8) (op : Byte → Byte → Byte × Byte) : (s.onReg r op).stop = s.stop := by cases r <;> rfl
@[simp] theorem State.onReg_fault (s : State) (r : Reg8) (op : Byte → Byte → Byte × Byte) : (s.onReg r op).fault = s.fault := by cases r <;> rfl
@[simp] theorem State.onReg_m (s : State) (r : Reg8) (op : Byte → Byte → Byte × Byte) : (s.onReg r op).m = s.m := by cases r <;> rfl
@[simp] theorem State.onReg_t (s : State) (r : Reg8) (op : Byte → Byte → Byte × Byte) : (s.onReg r op).t = s.t := by cases r <;> rfl
@[simp] theorem State.onReg_clockM (s : State) (r : Reg8) (op : Byte → Byte → Byte × Byte) : (s.onReg r op).clockM = s.clockM := by cases r <;> rfl
@[simp] theorem State.onReg_clockT (s : State) (r : Reg8) (op : Byte → Byte → Byte × Byte) : (s.onReg r op).clockT = s.clockT := by cases r <;> rfl
@[simp] theorem State.onReg_bios (s : State) (r : Reg8) (op : Byte → Byte → Byte × Byte) : (s.onReg r op).bios = s.bios := by cases r <;> rfl
@[simp] theorem State.onReg_rom (s : State) (r : Reg8) (op : Byte → Byte → Byte × Byte) : (s.onReg r op).rom = s.rom := by cases r <;> rfl

@[simp] theorem State.onHL_pc (s : State) (op : Byte → Byte → Byte × Byte) : (s.onHL op).pc = s.pc := by simp [State.onHL]
@[simp] theorem State.onHL_sp (s : State) (op : Byte → Byte → Byte × Byte) : (s.onHL op).sp = s.sp := by simp [State.onHL]
@[simp] theorem State.onHL_ime (s : State) (op : Byte → Byte → Byte × Byte) : (s.onHL op).ime = s.ime := by simp [State.onHL]
@[simp] theorem State.onHL_inbios (s : State) (op : Byte → Byte → Byte × Byte) : (s.onHL op).inbios = s.inbios := by simp [State.onHL]
@[simp] theorem State.onHL_halt (s : State) (op : Byte → Byte → Byte × Byte) : (s.onHL op).halt = s.halt := by simp [State.onHL]
@[simp] theorem State.onHL_stop (s : State) (op : Byte → Byte → Byte × Byte) : (s.onHL op).stop = s.stop := by simp [State.onHL]
@[simp] theorem State.onHL_fault (s : State) (op : Byte → Byte → Byte × Byte) : (s.onHL op).fault = s.fault := by simp [State.onHL]
@[simp] theorem State.onHL_m (s : State) (op : Byte → Byte → Byte × Byte) : (s.onHL op).m = s.m := by simp [State.onHL]
@[simp] theorem State.onHL_t (s : State) (op : Byte → Byte → Byte × Byte) : (s.onHL op).t = s.t := by simp [State.onHL]
@[simp] theorem State.onHL_clockM (s : State) (op : Byte → Byte → Byte × Byte) : (s.onHL op).clockM = s.clockM := by simp [State.onHL]
@[simp] theorem State.onHL_clockT (s : State) (op : Byte → Byte → Byte × Byte) : (s.onHL op).clockT = s.clockT := by simp [State.onHL]
@[simp] theorem State.onHL_bios (s : State) (op : Byte → Byte → Byte × Byte) : (s.onHL op).bios = s.bios := by simp [State.onHL]
@[simp] theorem State.onHL_rom (s : State) (op : Byte → Byte → Byte × Byte) : (s.onHL op).rom = s.rom := by simp [State.onHL]

@[simp] theorem State.memWriteWord_pc (s : State) (A v : Word) : (s.memWriteWord A v).pc = s.pc := by simp [State.memWriteWord]
@[simp] theorem State.memWriteWord_sp (s : State) (A v : Word) : (s.memWriteWord A v).sp = s.sp := by simp [State.memWriteWord]
@[simp] theorem State.memWriteWord_ime (s : State) (A v : Word) : (s.memWriteWord A v).ime = s.ime := by simp [State.memWriteWord]
@[simp] theorem State.memWriteWord_inbios (s : State) (A v : Word) : (s.memWriteWord A v).inbios = s.inbios := by simp [State.memWriteWord]
@[simp] theorem State.memWriteWord_halt (s : State) (A v : Word) : (s.memWriteWord A v).halt = s.halt := by simp [State.memWriteWord]
@[simp] theorem State.memWriteWord_stop (s : State) (A v : Word) : (s.memWriteWord A v).stop = s.stop := by simp [State.memWriteWord]
@[simp] theorem State.memWriteWord_fault (s : State) (A v : Word) : (s.memWriteWord A v).fault = s.fault := by simp [State.memWriteWord]
@[simp] theorem State.memWriteWord_m (s : State) (A v : Word) : (s.memWriteWord A v).m = s.m := by simp [State.memWriteWord]
@[simp] theorem State.memWriteWord_t (s : State) (A v : Word) : (s.memWriteWord A v).t = s.t := by simp [State.memWriteWord]
@[simp] theorem State.memWriteWord_clockM (s : State) (A v : Word) : (s.memWriteWord A v).clockM = s.clockM := by simp [State.memWriteWord]
@[simp] theorem State.memWriteWord_clockT (s : State) (A v : Word) : (s.memWriteWord A v).clockT = s.clockT := by simp [State.memWriteWord]
@[simp] theorem State.memWriteWord_bios (s : State) (A v : Word) : (s.memWriteWord A v).bios = s.bios := by simp [State.memWriteWord]
@[simp] theorem State.memWriteWord_rom (s : State) (A v : Word) : (s.memWriteWord A v).rom = s.rom := by simp [State.memWriteWord]

/-! ### `State.reg` reads the fields -/

@[simp] theorem State.reg_a (s : State) : s.reg .a = s.a := rfl
@[simp] theorem State.reg_b (s : State) : s.reg .b = s.b := rfl
@[simp] theorem State.reg_c (s : State) : s.reg .c = s.c := rfl
@[simp] theorem State.reg_d (s : State) : s.reg .d = s.d := rfl
@[simp] theorem State.reg_e (s : State) : s.reg .e = s.e := rfl
@[simp] theorem State.reg_h (s : State) : s.reg .h = s.h := rfl
@[simp] theorem State.reg_l (s : State) : s.reg .l = s.l := rfl

/-- A register read depends on the seven register fields alone. -/
theorem State.reg_congr {s t : State} (ha : t.a = s.a) (hb : t.b = s.b) (hc : t.c = s.c) (hd : t.d = s.d)
    (he : t.e = s.e) (hh : t.h = s.h) (hl : t.l = s.l) (r : Reg8) : t.reg r = s.reg r := by
  cases r <;> assumption

end Sys2Proof.Machine
end

