-- ==== Sys2Proof/Laws/Memory.lean ====
section
/-! SUPPORT. The laws of the memory arrays and of the decoder (20_memory.md): read after write, the canonical form is kept,
and the one lemma that says what a byte write does to a byte read. -/

namespace Sys2Proof.Machine

/-! ### One array: read after write -/

@[simp] theorem Memory.get_nil (i : Nat) : Memory.get [] i = Config.unwritten := rfl

theorem Memory.get_erase (mem : Memory) (i j : Nat) :
    (mem.erase i).get j = if j = i then Config.unwritten else mem.get j := by
  induction mem with
  | nil => simp [Memory.erase, Memory.get]
  | cons x rest ih =>
    obtain ⟨k, w⟩ := x
    simp only [Memory.erase]
    split
    · subst i; rw [ih]; by_cases hj : j = k <;> simp [Memory.get, hj]
    · rename_i hik
      simp only [Memory.get, ih]
      by_cases hjk : j = k
      · subst j; simp [Ne.symm hik]
      · simp [hjk]

theorem Memory.get_insert (mem : Memory) (i j : Nat) (v : Byte) (h : mem.get i = Config.unwritten)
    (hfree : ∀ w, (i, w) ∉ mem) : (mem.insert i v).get j = if j = i then v else mem.get j := by
  induction mem with
  | nil => simp [Memory.insert, Memory.get]
  | cons x rest ih =>
    obtain ⟨k, w⟩ := x
    have hik : i ≠ k := by rintro rfl; exact hfree w (by simp)
    simp only [Memory.insert]
    split
    · simp [Memory.get]
    · simp only [Memory.get, if_neg hik] at h ⊢
      rw [ih h (fun w hw => hfree w (by simp [hw]))]
      by_cases hjk : j = k
      · subst j; simp [Ne.symm hik]
      · simp [hjk]

theorem Memory.not_mem_erase (mem : Memory) (i : Nat) (w : Byte) : (i, w) ∉ mem.erase i := by
  induction mem with
  | nil => simp [Memory.erase]
  | cons x rest ih =>
    obtain ⟨k, u⟩ := x
    simp only [Memory.erase]
    split
    · exact ih
    · rename_i hik
      simp [hik, ih]

/-- Read after write, in any array, canonical or not. -/
theorem Memory.get_set (mem : Memory) (i j : Nat) (v : Byte) : (mem.set i v).get j = if j = i then v else mem.get j := by
  unfold Memory.set
  split
  · rename_i h; rw [Memory.get_erase, h]
  · rw [Memory.get_insert _ _ _ _ (by simp [Memory.get_erase]) (mem.not_mem_erase i), Memory.get_erase]
    by_cases hj : j = i <;> simp [hj]

/-! ### One array: the canonical form -/

theorem Memory.wfFrom_cons (size lo i : Nat) (v : Byte) (rest : Memory) :
    Memory.wfFrom size lo ((i, v) :: rest) = true ↔
      lo ≤ i ∧ i < size ∧ v ≠ Config.unwritten ∧ Memory.wfFrom size (i + 1) rest = true := by
  simp [Memory.wfFrom, and_assoc]

theorem Memory.wfFrom_mono {size lo lo' : Nat} {mem : Memory} (h : Memory.wfFrom size lo mem = true) (hle : lo' ≤ lo) :
    Memory.wfFrom size lo' mem = true := by
  cases mem with
  | nil => rfl
  | cons x rest =>
    rw [Memory.wfFrom_cons] at h ⊢
    exact ⟨hle.trans h.1, h.2⟩

theorem Memory.wfFrom_erase {size lo : Nat} {mem : Memory} (i : Nat) (h : Memory.wfFrom size lo mem = true) :
    Memory.wfFrom size lo (mem.erase i) = true := by
  induction mem generalizing lo with
  | nil => rfl
  | cons x rest ih =>
    rw [Memory.wfFrom_cons] at h
    simp only [Memory.erase]
    split
    · exact Memory.wfFrom_mono (ih h.2.2.2) (Nat.le_succ_of_le h.1)
    · rw [Memory.wfFrom_cons]; exact ⟨h.1, h.2.1, h.2.2.1, ih h.2.2.2⟩

theorem Memory.wfFrom_insert {size lo : Nat} {mem : Memory} {i : Nat} {v : Byte} (h : Memory.wfFrom size lo mem = true)
    (hlo : lo ≤ i) (hi : i < size) (hv : v ≠ Config.unwritten) (hfree : ∀ w, (i, w) ∉ mem) :
    Memory.wfFrom size lo (mem.insert i v) = true := by
  induction mem generalizing lo with
  | nil => rw [Memory.insert, Memory.wfFrom_cons]; exact ⟨hlo, hi, hv, rfl⟩
  | cons x rest ih =>
    obtain ⟨k, w⟩ := x
    have hik : i ≠ k := by rintro rfl; exact hfree w (by simp)
    rw [Memory.wfFrom_cons] at h
    simp only [Memory.insert]
    split
    · rename_i hlt
      rw [Memory.wfFrom_cons, Memory.wfFrom_cons]
      exact ⟨hlo, hi, hv, hlt, h.2⟩
    · rename_i hlt
      rw [Memory.wfFrom_cons]
      exact ⟨h.1, h.2.1, h.2.2.1, ih h.2.2.2 (by omega) (fun w hw => hfree w (by simp [hw]))⟩

/-- A write within the array's size keeps the canonical form. -/
theorem Memory.wf_set {size : Nat} {mem : Memory} {i : Nat} (v : Byte) (h : mem.wf size = true) (hi : i < size) :
    (mem.set i v).wf size = true := by
  unfold Memory.set
  split
  · exact Memory.wfFrom_erase i h
  · rename_i hv
    exact Memory.wfFrom_insert (Memory.wfFrom_erase i h) (Nat.zero_le _) hi hv (mem.not_mem_erase i)

theorem Memory.wfFrom_ofBytesFrom {size lo : Nat} (bytes : List Byte) (h : lo + bytes.length ≤ size) :
    Memory.wfFrom size lo (Memory.ofBytesFrom lo bytes) = true := by
  induction bytes generalizing lo with
  | nil => rfl
  | cons v rest ih =>
    simp only [List.length_cons] at h
    have hr := ih (lo := lo + 1) (by omega)
    simp only [Memory.ofBytesFrom]
    split
    · exact Memory.wfFrom_mono hr (Nat.le_succ lo)
    · rename_i hv; rw [Memory.wfFrom_cons]; exact ⟨Nat.le_refl _, by omega, hv, hr⟩

/-- The byte of an array made from a list of bytes: the list's byte, 0 beyond it and below its start. -/
theorem Memory.get_ofBytesFrom (lo i : Nat) (bytes : List Byte) :
    (Memory.ofBytesFrom lo bytes).get i = if lo ≤ i then bytes.getD (i - lo) Config.unwritten else Config.unwritten := by
  induction bytes generalizing lo with
  | nil => simp [Memory.ofBytesFrom]
  | cons v rest ih =>
    simp only [Memory.ofBytesFrom]
    have key : (Memory.ofBytesFrom (lo + 1) rest).get i = if i = lo then Config.unwritten
        else if lo ≤ i then (v :: rest).getD (i - lo) Config.unwritten else Config.unwritten := by
      rw [ih]
      by_cases h1 : i = lo
      · subst i; simp
      · by_cases h2 : lo ≤ i
        · have h3 : lo + 1 ≤ i := by omega
          have h4 : i - lo = i - (lo + 1) + 1 := by omega
          simp [h1, h2, h3, h4]
        · simp [h1, h2, show ¬ (lo + 1 ≤ i) by omega]
    split
    · rename_i hv
      rw [key]
      by_cases h1 : i = lo
      · subst i; simp [hv]
      · simp [h1]
    · simp only [Memory.get, key]
      by_cases h1 : i = lo
      · subst i; simp
      · simp [h1]

/-! ### The decoder -/

/-- The decoder by ranges, each with its index counted from the start of the range (R51). The third argument of every case is
all a caller needs of `locate`. -/
theorem locate_ranges (x : Bool) (A : Word) :
    (A.toNat < 0x100 ∧ x = true ∧ locate x A = .cell .bios A.toNat) ∨
    (A.toNat < 0x8000 ∧ (x = true → 0x100 ≤ A.toNat) ∧ locate x A = .cell .rom A.toNat) ∨
    (0x8000 ≤ A.toNat ∧ A.toNat < 0xA000 ∧ locate x A = .cell .vram (A.toNat - 0x8000)) ∨
    (0xA000 ≤ A.toNat ∧ A.toNat < 0xC000 ∧ locate x A = .cell .eram (A.toNat - 0xA000)) ∨
    (0xC000 ≤ A.toNat ∧ A.toNat < 0xE000 ∧ locate x A = .cell .wram (A.toNat - 0xC000)) ∨
    (0xE000 ≤ A.toNat ∧ A.toNat < 0xFE00 ∧ locate x A = .cell .wram (A.toNat - 0xE000)) ∨
    (0xFE00 ≤ A.toNat ∧ A.toNat < 0xFEA0 ∧ locate x A = .cell .oam (A.toNat - 0xFE00)) ∨
    (0xFEA0 ≤ A.toNat ∧ A.toNat < 0xFF80 ∧ locate x A = .absent) ∨
    (0xFF80 ≤ A.toNat ∧ locate x A = .cell .zram (A.toNat - 0xFF80)) := by
  have hA := A.isLt
  unfold locate
  generalize A.toNat = a at *
  simp only
  by_cases h0 : a < 0x8000
  · cases x
    · simp [h0]
    · by_cases h1 : a < 0x100
      · simp [h0, h1]
      · simp [h0, h1]; omega
  rw [if_neg h0]
  by_cases h1 : a < 0xA000
  · rw [if_pos h1, show a % 0x2000 = a - 0x8000 by omega]; simp [h1]; omega
  rw [if_neg h1]
  by_cases h2 : a < 0xC000
  · rw [if_pos h2, show a % 0x2000 = a - 0xA000 by omega]; simp [h2]; omega
  rw [if_neg h2]
  by_cases h3 : a < 0xFE00
  · rw [if_pos h3]
    by_cases h4 : a < 0xE000
    · rw [show a % 0x2000 = a - 0xC000 by omega]; simp [h4]; omega
    · rw [show a % 0x2000 = a - 0xE000 by omega]; simp [h3]; omega
  rw [if_neg h3]
  by_cases h5 : a < 0xFEA0
  · rw [if_pos h5, show a % 0x100 = a - 0xFE00 by omega]; simp [h5]; omega
  rw [if_neg h5]
  by_cases h6 : a < 0xFF80
  · rw [if_pos h6]; simp [h6]; omega
  · rw [if_neg h6, show a % 0x80 = a - 0xFF80 by omega]; simp; omega

/-- The index the decoder gives lies within the array (R52, R37). -/
theorem locate_index_lt {inbios : Bool} {A : Word} {r : Region} {i : Nat} (h : locate inbios A = .cell r i) : i < r.size := by
  have hA := A.isLt
  rcases locate_ranges inbios A with
    ⟨k, _, g⟩ | ⟨k, _, g⟩ | ⟨_, _, g⟩ | ⟨_, _, g⟩ | ⟨_, _, g⟩ | ⟨_, _, g⟩ | ⟨_, _, g⟩ | ⟨_, _, g⟩ | ⟨_, g⟩
  all_goals
    rw [h] at g
    cases g
  · exact k
  · exact k
  · show _ < 8192; omega
  · show _ < 8192; omega
  · show _ < 8192; omega
  · show _ < 8192; omega
  · show _ < 160; omega
  · show _ < 128; omega

/-- The latch matters below 0x0100 only (R54). -/
theorem locate_of_ge (x y : Bool) {A : Word} (h : 0x100 ≤ A.toNat) : locate x A = locate y A := by
  have h' : ¬ A.toNat < 0x100 := by omega
  simp [locate, h']

/-- The byte a byte write leaves at any address: the written byte where the address selects the written cell, otherwise what
was there (R52, R53, R60, R61, R63). -/
theorem State.memRead_memWrite (s : State) (A B : Word) (v : Byte) :
    (s.memWrite A v).memRead B =
      match locate s.inbios A with
      | .cell r i => if r.writable = true ∧ locate s.inbios B = .cell r i then v else s.memRead B
      | .absent => s.memRead B := by
  unfold State.memWrite
  cases hA : locate s.inbios A with
  | absent => rfl
  | cell r i =>
    simp only
    by_cases hw : r.writable = true
    · simp only [hw, if_true, true_and, State.memRead, State.poke, State.setArray_inbios]
      cases hB : locate s.inbios B with
      | absent => simp
      | cell q j =>
        simp only [State.array_setArray, Loc.cell.injEq]
        by_cases hq : q = r
        · subst hq; simp [Memory.get_set]
        · simp [hq]
    · simp [hw]

/-- Below 0x8000 nothing is written, with the latch or without (R63). -/
theorem State.memWrite_of_lt (s : State) {A : Word} (v : Byte) (h : A.toNat < 0x8000) : s.memWrite A v = s := by
  have hl : locate s.inbios A = .cell .bios A.toNat ∨ locate s.inbios A = .cell .rom A.toNat := by
    unfold locate
    simp only
    rw [if_pos h]
    split
    · exact .inl rfl
    · exact .inr rfl
  unfold State.memWrite
  rcases hl with hl | hl <;> rw [hl] <;> rfl

/-- Where a write goes does not depend on the latch. -/
theorem State.memWrite_withInbios (s : State) (x : Bool) (A : Word) (v : Byte) :
    State.memWrite { s with inbios := x } A v = { s.memWrite A v with inbios := x } := by
  by_cases h : A.toNat < 0x8000
  · rw [State.memWrite_of_lt _ _ h, State.memWrite_of_lt _ _ h]
  · unfold State.memWrite
    rw [locate_of_ge ({ s with inbios := x } : State).inbios s.inbios (by omega)]
    cases locate s.inbios A with
    | absent => rfl
    | cell r i => cases r <;> rfl

/-- Nor on `ime`, nor on `sp`. -/
theorem State.memWrite_withIme (s : State) (x : Bool) (A : Word) (v : Byte) :
    State.memWrite { s with ime := x } A v = { s.memWrite A v with ime := x } := by
  unfold State.memWrite
  simp only
  cases locate s.inbios A with
  | absent => rfl
  | cell r i => cases r <;> rfl

theorem State.memWrite_withSp (s : State) (x A : Word) (v : Byte) :
    State.memWrite { s with sp := x } A v = { s.memWrite A v with sp := x } := by
  unfold State.memWrite
  simp only
  cases locate s.inbios A with
  | absent => rfl
  | cell r i => cases r <;> rfl

/-- A byte read depends on the latch and the arrays alone. -/
theorem State.memRead_congr {s t : State} (hin : t.inbios = s.inbios) (harr : ∀ r, t.array r = s.array r) (A : Word) :
    t.memRead A = s.memRead A := by
  simp [State.memRead, hin, harr]

/-! ### The canonical form of all arrays -/

theorem State.memWf_iff (s : State) : s.memWf = true ↔ ∀ r : Region, (s.array r).wf r.size = true := by
  simp only [State.memWf, Bool.and_eq_true]
  constructor
  · rintro ⟨⟨⟨⟨⟨⟨h1, h2⟩, h3⟩, h4⟩, h5⟩, h6⟩, h7⟩ r
    cases r <;> assumption
  · intro h
    exact ⟨⟨⟨⟨⟨⟨h .bios, h .rom⟩, h .vram⟩, h .eram⟩, h .wram⟩, h .oam⟩, h .zram⟩

/-- Storing a byte where the decoder points keeps every array canonical. -/
theorem State.memWf_poke {s : State} (h : s.memWf = true) {x : Bool} {A : Word} (v : Byte) :
    (s.poke (locate x A) v).memWf = true := by
  rw [State.memWf_iff] at h ⊢
  cases hA : locate x A with
  | absent => exact h
  | cell r i =>
    intro q
    simp only [State.poke, State.array_setArray]
    split
    · subst q; exact Memory.wf_set v (h r) (locate_index_lt hA)
    · exact h q

/-- A byte write keeps every array canonical. -/
theorem State.memWf_memWrite {s : State} (h : s.memWf = true) (A : Word) (v : Byte) : (s.memWrite A v).memWf = true := by
  unfold State.memWrite
  cases hA : locate s.inbios A with
  | absent => exact h
  | cell r i =>
    simp only
    split
    · rw [← hA]; exact State.memWf_poke h v
    · exact h

/-- The arrays are all the canonical form depends on. -/
theorem State.memWf_congr {s t : State} (harr : ∀ r, t.array r = s.array r) : t.memWf = s.memWf := by
  have := State.memWf_iff s
  have := State.memWf_iff t
  simp only [harr] at *
  cases hs : s.memWf <;> cases ht : t.memWf <;> simp_all

theorem State.memWf_setSp (s : State) (x : Word) : State.memWf { s with sp := x } = s.memWf :=
  State.memWf_congr (fun r => by cases r <;> rfl)

theorem State.memWf_push16 {s : State} (h : s.memWf = true) (v : Word) : (s.push16 v).memWf = true := by
  have h1 : State.memWf { s with sp := s.sp - 1 } = true := by rw [State.memWf_setSp]; exact h
  have h2 := State.memWf_memWrite h1 (s.sp - 1) (hiByte v)
  simp only [State.push16]
  exact State.memWf_memWrite (by rw [State.memWf_setSp]; exact h2) _ _

theorem State.memWf_memWriteWord {s : State} (h : s.memWf = true) (A v : Word) : (s.memWriteWord A v).memWf = true :=
  State.memWf_memWrite (State.memWf_memWrite h _ _) _ _

/-- `loadRom` leaves a canonical ROM whatever its argument (R366). -/
theorem Memory.wf_take (size : Nat) (bytes : List Byte) : (Memory.ofBytesFrom 0 (bytes.take size)).wf size = true :=
  Memory.wfFrom_ofBytesFrom _ (by simp [List.length_take])

end Sys2Proof.Machine
end

