-- ==== Sys2Proof/Laws/Ops.lean ====
section
/-! SUPPORT. What each shared operation keeps, whatever it is given (10_state.md R38, R40; 20_memory.md R63), said once: the
meanings are built from these, so a claim about every instruction cites these lemmas and unfolds no meaning twice. -/

namespace Sys2Proof.Machine

/-- What no instruction does before its cost is charged or its fault raised: write BIOS, ROM or the Clock Accumulator, break an
array's form, set the BIOS latch or leave it set at 0x0100, clear `halt`, touch `stop` or the fault record. -/
structure State.Keeps (s t : State) : Prop where
  bios : t.bios = s.bios
  rom : t.rom = s.rom
  clockM : t.clockM = s.clockM
  clockT : t.clockT = s.clockT
  memWf : s.memWf = true → t.memWf = true
  inbios : t.inbios = true → s.inbios = true
  latch : (s.pc = Config.latchAddress → s.inbios = false) → t.pc = Config.latchAddress → t.inbios = false
  halt : s.halt = true → t.halt = true
  stop : t.stop = s.stop
  fault : t.fault = s.fault

namespace State.Keeps

theorem refl (s : State) : s.Keeps s := ⟨rfl, rfl, rfl, rfl, id, id, id, id, rfl, rfl⟩

theorem trans {s t u : State} (h : s.Keeps t) (g : t.Keeps u) : s.Keeps u :=
  ⟨g.bios.trans h.bios, g.rom.trans h.rom, g.clockM.trans h.clockM, g.clockT.trans h.clockT, g.memWf ∘ h.memWf,
    h.inbios ∘ g.inbios, g.latch ∘ h.latch, g.halt ∘ h.halt, g.stop.trans h.stop, g.fault.trans h.fault⟩

/-- An update of registers, flags, `sp`, `ime` or the cost counters only. -/
theorem ofRegs {s t : State} (harr : ∀ r, t.array r = s.array r) (hclockM : t.clockM = s.clockM)
    (hclockT : t.clockT = s.clockT) (hpc : t.pc = s.pc) (hin : t.inbios = s.inbios) (hhalt : s.halt = true → t.halt = true)
    (hstop : t.stop = s.stop) (hfault : t.fault = s.fault) : s.Keeps t :=
  ⟨harr .bios, harr .rom, hclockM, hclockT, fun h => by rw [State.memWf_congr harr]; exact h, fun h => hin ▸ h,
    fun h => by rw [hpc, hin]; exact h, hhalt, hstop, hfault⟩

theorem setReg (s : State) (r : Reg8) (v : Byte) : s.Keeps (s.setReg r v) := by
  cases r <;> exact ofRegs (fun q => by cases q <;> rfl) rfl rfl rfl rfl id rfl rfl

theorem setHL (s : State) (v : Word) : s.Keeps (s.setHL v) :=
  ofRegs (fun q => by cases q <;> rfl) rfl rfl rfl rfl id rfl rfl

theorem setRR (s : State) (p : RR) (v : Word) : s.Keeps (s.setRR p v) := by
  cases p <;> exact ofRegs (fun q => by cases q <;> rfl) rfl rfl rfl rfl id rfl rfl

theorem setQQ (s : State) (q : QQ) (v : Word) : s.Keeps (s.setQQ q v) := by
  cases q <;> exact ofRegs (fun q => by cases q <;> rfl) rfl rfl rfl rfl id rfl rfl

theorem setF (s : State) (f : Byte) : s.Keeps { s with f := f } :=
  ofRegs (fun q => by cases q <;> rfl) rfl rfl rfl rfl id rfl rfl

theorem setSp (s : State) (v : Word) : s.Keeps { s with sp := v } :=
  ofRegs (fun q => by cases q <;> rfl) rfl rfl rfl rfl id rfl rfl

theorem setIme (s : State) (x : Bool) : s.Keeps { s with ime := x } :=
  ofRegs (fun q => by cases q <;> rfl) rfl rfl rfl rfl id rfl rfl

theorem setHalt (s : State) : s.Keeps { s with halt := true } :=
  ofRegs (fun q => by cases q <;> rfl) rfl rfl rfl rfl (fun _ => rfl) rfl rfl

theorem writePc (s : State) (v : Word) : s.Keeps (s.writePc v) where
  bios := rfl
  rom := rfl
  clockM := rfl
  clockT := rfl
  memWf h := by rw [State.memWf_congr (fun q => by cases q <;> rfl)]; exact h
  inbios h := (Bool.and_eq_true_iff.mp h).1
  latch _ h := by simp only [State.writePc_pc] at h; simp [h]
  halt := id
  stop := rfl
  fault := rfl

theorem branch (s : State) (e : Byte) : s.Keeps (s.branch e) := writePc s _

theorem memWrite (s : State) (A : Word) (v : Byte) : s.Keeps (s.memWrite A v) :=
  ⟨by simp, by simp, by simp, by simp, fun h => State.memWf_memWrite h A v, by simp, by simp, by simp, by simp, by simp⟩

theorem memWriteWord (s : State) (A v : Word) : s.Keeps (s.memWriteWord A v) :=
  (memWrite s _ _).trans (memWrite _ _ _)

theorem push16 (s : State) (v : Word) : s.Keeps (s.push16 v) :=
  (((setSp s _).trans (memWrite _ _ _)).trans (setSp _ _)).trans (memWrite _ _ _)

theorem pop16 (s : State) : s.Keeps s.pop16.2 :=
  (setSp s _).trans (setSp _ _)

theorem alu (s : State) (op : Byte → Byte → Byte → Byte × Byte) (v : Byte) : s.Keeps (s.alu op v) :=
  (setReg s .a _).trans (setF _ _)

theorem onReg (s : State) (r : Reg8) (op : Byte → Byte → Byte × Byte) : s.Keeps (s.onReg r op) :=
  (setReg s r _).trans (setF _ _)

theorem onHL (s : State) (op : Byte → Byte → Byte × Byte) : s.Keeps (s.onHL op) :=
  (memWrite s _ _).trans (setF _ _)

theorem rotateA (s : State) (op : Byte → Bool → Byte × Bool) : s.Keeps (s.rotateA op) :=
  (setReg s .a _).trans (setF _ _)

theorem fetch8 (s : State) : s.Keeps s.fetch8.2 := writePc s _

theorem fetch16 (s : State) : s.Keeps s.fetch16.2 := (fetch8 s).trans (fetch8 _)

end State.Keeps

/-! ### The stack (47_stack.md R270, R271) -/

/-- The word a pop gives and where it leaves `sp`. -/
theorem State.pop16_spec (s : State) :
    s.pop16.1 = joinBytes (s.memRead (s.sp + 1)) (s.memRead s.sp) ∧ s.pop16.2.sp = s.sp + 2 := by
  refine ⟨rfl, ?_⟩
  show s.sp + 1 + 1 = s.sp + 2
  rw [BitVec.add_assoc]
  rfl

/-- A push is two byte writes, the high byte at `sp - 1` and then the low byte at `sp - 2`, and `sp` moved down by two. -/
theorem State.push16_eq (s : State) (v : Word) :
    s.push16 v = { ((s.memWrite (s.sp - 1) (hiByte v)).memWrite (s.sp - 2) (loByte v)) with sp := s.sp - 2 } := by
  have h2 : s.sp - 1 - 1 = s.sp - 2 := by bv_omega
  unfold State.push16
  dsimp only
  rw [State.memWrite_withSp s (s.sp - 1)]
  dsimp only
  rw [State.memWrite_withSp (s.memWrite (s.sp - 1) (hiByte v)), h2]

/-- Where a push writes does not depend on the latch, nor on `ime`. -/
theorem State.push16_withInbios (s : State) (x : Bool) (v : Word) :
    State.push16 { s with inbios := x } v = { s.push16 v with inbios := x } := by
  rw [State.push16_eq, State.push16_eq]
  have h := State.memWrite_withInbios s x (s.sp - 1) (hiByte v)
  dsimp only at h ⊢
  rw [h, State.memWrite_withInbios]

theorem State.push16_withIme (s : State) (x : Bool) (v : Word) :
    State.push16 { s with ime := x } v = { s.push16 v with ime := x } := by
  rw [State.push16_eq, State.push16_eq]
  have h := State.memWrite_withIme s x (s.sp - 1) (hiByte v)
  dsimp only at h ⊢
  rw [h, State.memWrite_withIme]

/-! ### Fetching (30_encoding.md R92, R93; 60_exceptions.md R350) -/

/-- An operand word is the byte at `pc` and the byte at `pc + 1`, the second read under the latch the first left. -/
theorem State.fetch16_spec (s : State) :
    s.fetch16.1 = joinBytes ((s.writePc (s.pc + 1)).memRead (s.pc + 1)) (s.memRead s.pc) ∧
    s.fetch16.2 = (s.writePc (s.pc + 1)).writePc (s.pc + 1 + 1) := ⟨rfl, rfl⟩

end Sys2Proof.Machine
end

