-- ==== Sys2Proof/Laws/Exec.lean ====
section
/-! SUPPORT. Everything an instruction can do to the machine as a whole, said once for all of them (10_state.md R38, R40;
60_exceptions.md R331): it charges its cost, or it raises the fault; and what follows for a step. -/

namespace Sys2Proof.Machine

/-- The two ways an instruction ends: with a cost of 1 to 6 machine cycles (70_reset_and_hazards.md R376) over a state that
`Keeps` what no instruction touches, or with the fault over a state that differs in `pc` and the latch only. -/
inductive Effect (s t : State) : Prop where
  | costed (u : State) (n : Nat) (keeps : s.Keeps u) (pos : 1 ≤ n) (le : n ≤ 6) (eq : t = u.cost n)
  | faulted (u : State) (p : Bool) (o : Byte) (keeps : s.Keeps u) (sameHalt : u.halt = s.halt)
      (sameM : u.m = s.m) (sameT : u.t = s.t)
      (eq : t = u.raiseFault p o (u.pc - 1))

/-- The result is a next state of which `Effect` holds. -/
def Answers (s : State) (r : Result) : Prop := ∃ t, r = .next t ∧ Effect s t

theorem Answers.costed {s u : State} {n : Nat} (h : s.Keeps u) (pos : 1 ≤ n := by decide) (le : n ≤ 6 := by decide) :
    Answers s (.next (u.cost n)) := ⟨_, rfl, .costed u n h pos le rfl⟩

theorem Answers.faulted (s : State) (p : Bool) (o : Byte) : Answers s (.next (s.raiseFault p o (s.pc - 1))) :=
  ⟨_, rfl, .faulted s p o (.refl s) rfl rfl rfl rfl⟩

theorem Answers.ite {s : State} {c : Prop} [Decidable c] {x y : Result} (hx : Answers s x) (hy : Answers s y) :
    Answers s (if c then x else y) := by
  split
  · exact hx
  · exact hy

open State.Keeps

/-- Every row of the secondary table. -/
theorem execSecondary_answers (row : Secondary) (s : State) : Answers s (execSecondary row s) := by
  cases row with
  | unassigned26 => exact .faulted s true 0x26
  | unassigned2E => exact .faulted s true 0x2E
  | unassigned36 => exact .faulted s true 0x36
  | unassigned3E => exact .faulted s true 0x3E
  | rlcR r | rrcR r | rlR r | rrR r | slaR r | sraR r | sllR r | srlR r => exact .costed (onReg s r _)
  | rlcHL | rrcHL | rlHL | rrHL => exact .costed (onHL s _)
  | bitR b r => exact .costed (setF s _)
  | bitHL b => exact .costed (setF s _)
  | resR b r | setR b r => exact .costed (setReg s r _)
  | resHL b | setHL b => exact .costed (memWrite s _ _)

/-- The prefix fetches one byte more. -/
theorem execCbPrefix_answers (s : State) : Answers s (execCbPrefix s) := by
  obtain ⟨t, ht, h⟩ := execSecondary_answers (secondaryRow s.fetch8.1) s.fetch8.2
  refine ⟨t, ht, ?_⟩
  cases h with
  | costed u n k pos le eq => exact .costed u n ((fetch8 s).trans k) pos le eq
  | faulted u p o k hh hm ht eq => exact .faulted u p o ((fetch8 s).trans k) hh hm ht eq

/-- Every instruction: the case analysis each claim about all of them rests on. -/
theorem exec_answers (i : Instr) (s : State) : Answers s (exec i s) := by
  cases i with
  | nop => exact .costed (refl s)
  | halt => exact .costed (setHalt s)
  | di | ei => exact .costed (setIme s _)
  | ldRR rd _ => exact .costed (setReg s rd _)
  | ldRHL r | ldRN r _ => exact .costed (setReg s r _)
  | ldABC | ldADE | ldhAN _ | ldAC | ldANn _ => exact .costed (setReg s .a _)
  | ldHLR _ | ldHLN _ | ldBCA | ldDEA | ldhNA _ | ldCA | ldNnA _ => exact .costed (memWrite s _ _)
  | ldiHLA | lddHLA => exact .costed ((memWrite s _ _).trans (setHL _ _))
  | ldiAHL | lddAHL => exact .costed ((setReg s .a _).trans (setHL _ _))
  | ldRrNn p _ | incRr p | decRr p => exact .costed (setRR s p _)
  | ldNnSP _ => exact .costed (memWriteWord s _ _)
  | ldSPHL => exact .costed (setSp s _)
  | ldHLSPE _ | addHLRr _ => exact .costed ((setF s _).trans (setHL _ _))
  | addSPE e =>
    have h : s.Keeps { s with sp := (addSP s.sp e s.f).1 } := setSp s _
    exact .costed (h.trans (setF _ (addSP s.sp e s.f).2))
  | incR r | decR r | rlcR r | rrcR r | rlR r | rrR r | slaR r | sraR r | sllR r | srlR r => exact .costed (onReg s r _)
  | incHL | decHL | rlcHL | rrcHL | rlHL | rrHL => exact .costed (onHL s _)
  | addAR _ | addAHL | addAN _ | adcAR _ | adcAHL | adcAN _ | subR _ | subHL | subN _ | sbcAR _ | sbcAHL | sbcAN _ | andR _
  | andHL | andN _ | xorR _ | xorHL | xorN _ | orR _ | orHL | orN _ | cpR _ | cpHL | cpN _ => exact .costed (alu s _ _)
  | daa | cpl => exact .costed ((setReg s .a _).trans (setF _ _))
  | scf | ccf | bitR _ _ | bitHL _ => exact .costed (setF s _)
  | resR _ r | setR _ r => exact .costed (setReg s r _)
  | resHL _ | setHL _ => exact .costed (memWrite s _ _)
  | rlca | rla | rrca | rra => exact .costed (rotateA s _)
  | pushQq _ => exact .costed (push16 s _)
  | popRr q => exact .costed ((pop16 s).trans (setQQ _ q _))
  | popAF => exact .costed ((pop16 s).trans (setQQ _ .af _))
  | jpNn _ | jpHL => exact .costed (writePc s _)
  | jr _ => exact .costed (branch s _)
  | jpCcNn _ _ => exact .ite (.costed (writePc s _)) (.costed (refl s))
  | jrCc _ _ => exact .ite (.costed (branch s _)) (.costed (refl s))
  | callNn _ | rst _ => exact .costed ((push16 s _).trans (writePc _ _))
  | callCcNn _ _ => exact .ite (.costed ((push16 s _).trans (writePc _ _))) (.costed (refl s))
  | ret => exact .costed ((pop16 s).trans (writePc _ _))
  | reti => exact .costed (((pop16 s).trans (writePc _ _)).trans (setIme _ _))
  | retCc _ => exact .ite (.costed ((pop16 s).trans (writePc _ _))) (.costed (refl s))
  | djnz _ =>
    have hb : s.Keeps { s with b := s.b - 1 } := setReg s .b _
    exact .ite (.costed hb) (.costed (hb.trans (branch _ _)))
  | cbPrefix => exact execCbPrefix_answers s
  | unassignedD3 => exact .faulted s false 0xD3
  | unassignedDB => exact .faulted s false 0xDB
  | unassignedDD => exact .faulted s false 0xDD
  | unassignedE3 => exact .faulted s false 0xE3
  | unassignedE4 => exact .faulted s false 0xE4
  | unassignedEB => exact .faulted s false 0xEB
  | unassignedEC => exact .faulted s false 0xEC
  | unassignedED => exact .faulted s false 0xED
  | unassignedF4 => exact .faulted s false 0xF4
  | unassignedFC => exact .faulted s false 0xFC
  | unassignedFD => exact .faulted s false 0xFD
  | unassignedCB26 => exact .faulted s true 0x26
  | unassignedCB2E => exact .faulted s true 0x2E
  | unassignedCB36 => exact .faulted s true 0x36
  | unassignedCB3E => exact .faulted s true 0x3E

/-! ### Fetching and stepping -/

/-- Fetching writes `pc` and the latch and nothing else. -/
structure State.OnlyPc (s t : State) : Prop where
  eq : t = { s with pc := t.pc, inbios := t.inbios }
  inbios : t.inbios = true → s.inbios = true

theorem State.OnlyPc.refl (s : State) : s.OnlyPc s := ⟨rfl, id⟩

theorem State.OnlyPc.trans {s t u : State} (h : s.OnlyPc t) (g : t.OnlyPc u) : s.OnlyPc u := by
  refine ⟨?_, h.inbios ∘ g.inbios⟩
  rw [g.eq, h.eq]

theorem State.OnlyPc.writePc (s : State) (v : Word) : s.OnlyPc (s.writePc v) :=
  ⟨rfl, fun h => (Bool.and_eq_true_iff.mp h).1⟩

theorem State.fetchInstr_onlyPc (s : State) : s.OnlyPc s.fetchInstr.2 := by
  unfold State.fetchInstr
  dsimp only
  split
  · exact OnlyPc.writePc s _
  · exact OnlyPc.writePc s _
  · exact (OnlyPc.writePc s _).trans (OnlyPc.writePc _ _)
  · exact ((OnlyPc.writePc s _).trans (OnlyPc.writePc _ _)).trans (OnlyPc.writePc _ _)

theorem State.fetchInstr_keeps (s : State) : s.Keeps s.fetchInstr.2 := by
  unfold State.fetchInstr
  dsimp only
  split
  · exact Keeps.fetch8 s
  · exact Keeps.fetch8 s
  · exact (Keeps.fetch8 s).trans (Keeps.fetch8 _)
  · exact (Keeps.fetch8 s).trans (Keeps.fetch16 _)

/-- The fetch has written `pc`, so at 0x0100 the latch is clear (R31). -/
theorem State.fetchInstr_latch (s : State) (h : s.fetchInstr.2.pc = Config.latchAddress) : s.fetchInstr.2.inbios = false := by
  have key : ∀ (u : State) (v : Word), (u.writePc v).pc = Config.latchAddress → (u.writePc v).inbios = false := by
    intro u v hv
    simp only [State.writePc_pc] at hv
    simp [hv]
  revert h
  unfold State.fetchInstr
  dsimp only
  split <;> exact key _ _

/-- The four cases of `step()` (R350, R351, R333, R331). -/
theorem step_cases (s : State) :
    (s.stop = true ∧ step s = .next s) ∨
    (s.stop = false ∧ s.halt = true ∧ step s = .next s.idle) ∨
    (∃ u n, s.stop = false ∧ s.halt = false ∧ s.fetchInstr.2.Keeps u ∧ 1 ≤ n ∧ n ≤ 6 ∧ u.stop = false ∧
      step s = .next (u.cost n).account) ∨
    (∃ u p o, s.stop = false ∧ s.halt = false ∧ s.fetchInstr.2.Keeps u ∧ u.halt = s.halt ∧ u.m = s.m ∧ u.t = s.t ∧
      step s = .next (u.raiseFault p o (u.pc - 1))) := by
  cases hs : s.stop with
  | true => exact .inl ⟨rfl, by simp [step, hs]⟩
  | false =>
    cases hh : s.halt with
    | true => exact .inr (.inl ⟨rfl, rfl, by simp [step, hs, hh]⟩)
    | false =>
      obtain ⟨t, ht, heff⟩ := exec_answers s.fetchInstr.1 s.fetchInstr.2
      have hf := s.fetchInstr_onlyPc.eq
      cases heff with
      | costed u n k pos le eq =>
        have hu : u.stop = false := by rw [k.stop, hf]; exact hs
        exact .inr (.inr (.inl ⟨u, n, rfl, rfl, k, pos, le, hu, by simp [step, hs, hh, ht, eq, hu]⟩))
      | faulted u p o k e1 e2 e3 eq =>
        refine .inr (.inr (.inr ⟨u, p, o, rfl, rfl, k, ?_, ?_, ?_, by simp [step, hs, hh, ht, eq]⟩))
        · rw [e1, hf]; exact hh
        · rw [e2, hf]
        · rw [e3, hf]

end Sys2Proof.Machine
end

