-- ==== Sys2Proof/Laws/Word.lean ====
section
/-! SUPPORT. Bytes and words: joining and splitting (00_scope.md R9), the offset of R108. -/

namespace Sys2Proof.Machine

theorem joinBytes_toNat (hi lo : Byte) : (joinBytes hi lo).toNat = 256 * hi.toNat + lo.toNat := by
  simp only [joinBytes, BitVec.toNat_append]
  rw [← Nat.shiftLeft_add_eq_or_of_lt lo.isLt, Nat.shiftLeft_eq]
  omega

theorem loByte_toNat (w : Word) : (loByte w).toNat = w.toNat % 256 := by
  simp [loByte]

theorem hiByte_toNat (w : Word) : (hiByte w).toNat = w.toNat / 256 := by
  have := w.isLt
  simp only [hiByte, BitVec.toNat_setWidth, BitVec.toNat_ushiftRight, Nat.shiftRight_eq_div_pow]
  omega

@[simp] theorem hiByte_joinBytes (hi lo : Byte) : hiByte (joinBytes hi lo) = hi := by
  apply BitVec.eq_of_toNat_eq
  have := lo.isLt
  rw [hiByte_toNat, joinBytes_toNat]; omega

@[simp] theorem loByte_joinBytes (hi lo : Byte) : loByte (joinBytes hi lo) = lo := by
  apply BitVec.eq_of_toNat_eq
  have := lo.isLt
  rw [loByte_toNat, joinBytes_toNat]; omega

@[simp] theorem joinBytes_hi_lo (w : Word) : joinBytes (hiByte w) (loByte w) = w := by
  apply BitVec.eq_of_toNat_eq
  rw [joinBytes_toNat, hiByte_toNat, loByte_toNat]; omega

/-- The pair as a number. -/
theorem joinBytes_eq_ofNat (hi lo : Byte) : joinBytes hi lo = BitVec.ofNat 16 (256 * hi.toNat + lo.toNat) := by
  apply BitVec.eq_of_toNat_eq
  have := hi.isLt
  have := lo.isLt
  rw [joinBytes_toNat, BitVec.toNat_ofNat]; omega

theorem wordOf_eq (lo hi : Byte) : wordOf lo hi = joinBytes hi lo := rfl

/-- `sext8(e)` is `e` below 128 and `e - 256` from 128 on, modulo 65536 (R108). -/
theorem sext8_toNat (e : Byte) : (sext8 e).toNat = if e.toNat < 128 then e.toNat else e.toNat + 65280 := by
  have h := e.isLt
  rw [sext8, BitVec.toNat_signExtend, BitVec.msb_eq_decide]
  by_cases h1 : e.toNat < 128
  · have : ¬ 128 ≤ e.toNat := by omega
    simp [h1, this]; omega
  · have : 128 ≤ e.toNat := by omega
    simp [h1, this]; omega

end Sys2Proof.Machine
end

