-- ==== Sys2Proof/Laws/Flags.lean ====
section
/-! SUPPORT. Each bit of `f` after each flag write (10_state.md R25 to R28), and one lemma per datapath function. -/

namespace Sys2Proof.Machine

/-- One bit written by mask: the bit under test says which. -/
theorem getLsbD_setZ (f : Byte) (x : Bool) (k : Nat) : (setZ f x).getLsbD k = if k = 7 then x else f.getLsbD k := by
  by_cases hk : k < 8
  · cases x <;> interval_cases k <;> simp [setZ, withMask]
  · have : k ≠ 7 := by omega
    simp [this, BitVec.getLsbD_of_ge _ _ (Nat.le_of_not_lt hk)]

theorem getLsbD_setN (f : Byte) (x : Bool) (k : Nat) : (setN f x).getLsbD k = if k = 6 then x else f.getLsbD k := by
  by_cases hk : k < 8
  · cases x <;> interval_cases k <;> simp [setN, withMask]
  · have : k ≠ 6 := by omega
    simp [this, BitVec.getLsbD_of_ge _ _ (Nat.le_of_not_lt hk)]

theorem getLsbD_setH (f : Byte) (x : Bool) (k : Nat) : (setH f x).getLsbD k = if k = 5 then x else f.getLsbD k := by
  by_cases hk : k < 8
  · cases x <;> interval_cases k <;> simp [setH, withMask]
  · have : k ≠ 5 := by omega
    simp [this, BitVec.getLsbD_of_ge _ _ (Nat.le_of_not_lt hk)]

theorem getLsbD_setC (f : Byte) (x : Bool) (k : Nat) : (setC f x).getLsbD k = if k = 4 then x else f.getLsbD k := by
  by_cases hk : k < 8
  · cases x <;> interval_cases k <;> simp [setC, withMask]
  · have : k ≠ 4 := by omega
    simp [this, BitVec.getLsbD_of_ge _ _ (Nat.le_of_not_lt hk)]

/-- All four flags written: bits 7 to 4 as given, the others kept (R26). -/
theorem getLsbD_setZNHC (f : Byte) (z n h c : Bool) (k : Nat) :
    (setZNHC f z n h c).getLsbD k =
      if k = 7 then z else if k = 6 then n else if k = 5 then h else if k = 4 then c else f.getLsbD k := by
  simp only [setZNHC, getLsbD_setC, getLsbD_setH, getLsbD_setN, getLsbD_setZ]
  by_cases h7 : k = 7
  · subst h7; simp
  · by_cases h6 : k = 6
    · subst h6; simp
    · by_cases h5 : k = 5
      · subst h5; simp
      · by_cases h4 : k = 4 <;> simp [h7, h6, h5, h4]

/-- A byte is 0 exactly when its number is. -/
theorem byte_beq_zero (r : Byte) : (r == 0) = decide (r.toNat = 0) := by
  rw [Bool.eq_iff_iff, beq_iff_eq, decide_eq_true_iff]
  constructor
  · rintro rfl; rfl
  · intro h; exact BitVec.eq_of_toNat_eq h

/-- The result and the flags of an addition (R180, R183, R209). -/
theorem add8_spec (cin : Bool) (a v f : Byte) :
    (add8 cin a v f).1.toNat = (a.toNat + v.toNat + cin.toNat) % 256 ∧
    (add8 cin a v f).2 = setZNHC f (decide ((a.toNat + v.toNat + cin.toNat) % 256 = 0)) false false
      (decide (255 < a.toNat + v.toNat + cin.toNat)) := by
  have hr : (add8 cin a v f).1.toNat = (a.toNat + v.toNat + cin.toNat) % 256 := by simp [add8]
  refine ⟨hr, ?_⟩
  have hz : ((add8 cin a v f).1 == 0) = decide ((a.toNat + v.toNat + cin.toNat) % 256 = 0) := by
    rw [byte_beq_zero, hr]
  simp only [add8, gt_iff_lt] at hz ⊢
  rw [hz]

/-- The result and the flags of a subtraction (R186, R189, R209). -/
theorem sub8_spec (cin : Bool) (a v f : Byte) :
    (sub8 cin a v f).1.toNat = (a.toNat + 512 - v.toNat - cin.toNat) % 256 ∧
    (sub8 cin a v f).2 = setZNHC f (decide ((a.toNat + 512 - v.toNat - cin.toNat) % 256 = 0)) true false
      (decide (a.toNat < v.toNat + cin.toNat)) := by
  have ha := a.isLt
  have hv := v.isLt
  have hc : cin.toNat ≤ 1 := by cases cin <;> simp
  have hr : (sub8 cin a v f).1.toNat = (a.toNat + 512 - v.toNat - cin.toNat) % 256 := by
    simp only [sub8, BitVec.toNat_ofInt]
    omega
  refine ⟨hr, ?_⟩
  have hneg : (decide (((a.toNat : Int) - v.toNat - cin.toNat) < 0)) = decide (a.toNat < v.toNat + cin.toNat) := by
    rw [decide_eq_decide]; omega
  have hz : ((sub8 cin a v f).1 == 0) = decide ((a.toNat + 512 - v.toNat - cin.toNat) % 256 = 0) := by
    rw [byte_beq_zero, hr]
  simp only [sub8] at hz hneg ⊢
  rw [hz, hneg]

/-- The 17-bit sum of `ADD HL,rr` (R260). -/
theorem add16_spec (hl v : Word) (f : Byte) :
    (add16 hl v f).1.toNat = (hl.toNat + v.toNat) % 65536 ∧
    (add16 hl v f).2 = setC f (decide (65535 < hl.toNat + v.toNat)) := by
  simp [add16]

/-! Each datapath function of R229 as the number it makes, and the bit that leaves the byte. -/

theorem rlc8_toNat : ∀ (v : Byte) (c : Bool), (rlc8 v c).1.toNat = v.toNat * 2 % 256 + v.toNat / 128 := by decide
theorem rrc8_toNat : ∀ (v : Byte) (c : Bool), (rrc8 v c).1.toNat = v.toNat / 2 + v.toNat % 2 * 128 := by decide
theorem rl8_toNat : ∀ (v : Byte) (c : Bool), (rl8 v c).1.toNat = v.toNat * 2 % 256 + c.toNat := by decide
theorem rr8_toNat : ∀ (v : Byte) (c : Bool), (rr8 v c).1.toNat = v.toNat / 2 + c.toNat * 128 := by decide
theorem sla8_toNat : ∀ (v : Byte) (c : Bool), (sla8 v c).1.toNat = v.toNat * 2 % 256 := by decide
theorem sra8_toNat : ∀ (v : Byte) (c : Bool), (sra8 v c).1.toNat = v.toNat / 2 + v.toNat / 128 * 128 := by decide
theorem sll8_toNat : ∀ (v : Byte) (c : Bool), (sll8 v c).1.toNat = v.toNat * 2 % 256 + 1 := by decide
theorem srl8_toNat : ∀ (v : Byte) (c : Bool), (srl8 v c).1.toNat = v.toNat / 2 := by decide

@[simp] theorem rlc8_carry (v : Byte) (c : Bool) : (rlc8 v c).2 = v.getLsbD 7 := rfl
@[simp] theorem rrc8_carry (v : Byte) (c : Bool) : (rrc8 v c).2 = v.getLsbD 0 := rfl
@[simp] theorem rl8_carry (v : Byte) (c : Bool) : (rl8 v c).2 = v.getLsbD 7 := rfl
@[simp] theorem rr8_carry (v : Byte) (c : Bool) : (rr8 v c).2 = v.getLsbD 0 := rfl
@[simp] theorem sla8_carry (v : Byte) (c : Bool) : (sla8 v c).2 = v.getLsbD 7 := rfl
@[simp] theorem sra8_carry (v : Byte) (c : Bool) : (sra8 v c).2 = v.getLsbD 0 := rfl
@[simp] theorem sll8_carry (v : Byte) (c : Bool) : (sll8 v c).2 = v.getLsbD 7 := rfl
@[simp] theorem srl8_carry (v : Byte) (c : Bool) : (srl8 v c).2 = v.getLsbD 0 := rfl

/-- Bit `k` after `RES` and after `SET` (R222, R224). -/
theorem getLsbD_resBit (b : Nat) (v : Byte) (k : Nat) (hb : b < 8) (hk : k < 8) :
    (resBit b v).getLsbD k = if k = b then false else v.getLsbD k := by
  interval_cases b <;> interval_cases k <;> simp [resBit, bitMask]

theorem getLsbD_setBit (b : Nat) (v : Byte) (k : Nat) (hb : b < 8) (hk : k < 8) :
    (setBit b v).getLsbD k = if k = b then true else v.getLsbD k := by
  interval_cases b <;> interval_cases k <;> simp [setBit, bitMask]

end Sys2Proof.Machine
end

