-- ==== Sys2Proof/Laws/PerInstr.lean ====
section
/-! SUPPORT. The statements made once per instruction (LAWS.json): an encoding has one, two or three bytes (30_encoding.md R91, R105). -/

/-- An encoding has one, two or three bytes. -/
def Sys2Proof.Laws.EncodeLength.Statement (i : Sys2Proof.Instr) : Prop :=
  1 ≤ (Sys2Proof.encode i).length ∧ (Sys2Proof.encode i).length ≤ 3

namespace Sys2Proof.Laws.EncodeLength

theorem Statement.of_length {i : Instr} {n : Nat} (h : (encode i).length = n) (hn : 1 ≤ n ∧ n ≤ 3) : Statement i := by
  rw [Statement, h]; exact hn

theorem Statement.one {i : Instr} (h : (encode i).length = 1) : Statement i := .of_length h ⟨by omega, by omega⟩
theorem Statement.two {i : Instr} (h : (encode i).length = 2) : Statement i := .of_length h ⟨by omega, by omega⟩
theorem Statement.three {i : Instr} (h : (encode i).length = 3) : Statement i := .of_length h ⟨by omega, by omega⟩

theorem nop : Statement (.nop) := .one rfl
theorem ldRrNn (p : RR) (nn : Word) : Statement (.ldRrNn p nn) := .three rfl
theorem ldBCA : Statement (.ldBCA) := .one rfl
theorem incRr (p : RR) : Statement (.incRr p) := .one rfl
theorem incR (r : Reg8) : Statement (.incR r) := .one rfl
theorem decR (r : Reg8) : Statement (.decR r) := .one rfl
theorem ldRN (r : Reg8) (n : Byte) : Statement (.ldRN r n) := .two rfl
theorem rlca : Statement (.rlca) := .one rfl
theorem ldNnSP (nn : Word) : Statement (.ldNnSP nn) := .three rfl
theorem addHLRr (p : RR) : Statement (.addHLRr p) := .one rfl
theorem ldABC : Statement (.ldABC) := .one rfl
theorem decRr (p : RR) : Statement (.decRr p) := .one rfl
theorem rrca : Statement (.rrca) := .one rfl
theorem djnz (e : Byte) : Statement (.djnz e) := .two rfl
theorem ldDEA : Statement (.ldDEA) := .one rfl
theorem rla : Statement (.rla) := .one rfl
theorem jr (e : Byte) : Statement (.jr e) := .two rfl
theorem ldADE : Statement (.ldADE) := .one rfl
theorem rra : Statement (.rra) := .one rfl
theorem jrCc (cc : Cond) (e : Byte) : Statement (.jrCc cc e) := .two rfl
theorem ldiHLA : Statement (.ldiHLA) := .one rfl
theorem daa : Statement (.daa) := .one rfl
theorem ldiAHL : Statement (.ldiAHL) := .one rfl
theorem cpl : Statement (.cpl) := .one rfl
theorem lddHLA : Statement (.lddHLA) := .one rfl
theorem incHL : Statement (.incHL) := .one rfl
theorem decHL : Statement (.decHL) := .one rfl
theorem ldHLN (n : Byte) : Statement (.ldHLN n) := .two rfl
theorem scf : Statement (.scf) := .one rfl
theorem lddAHL : Statement (.lddAHL) := .one rfl
theorem ccf : Statement (.ccf) := .one rfl
theorem ldRR (rd rs : Reg8) : Statement (.ldRR rd rs) := .one rfl
theorem ldRHL (r : Reg8) : Statement (.ldRHL r) := .one rfl
theorem ldHLR (r : Reg8) : Statement (.ldHLR r) := .one rfl
theorem halt : Statement (.halt) := .one rfl
theorem addAR (r : Reg8) : Statement (.addAR r) := .one rfl
theorem addAHL : Statement (.addAHL) := .one rfl
theorem adcAR (r : Reg8) : Statement (.adcAR r) := .one rfl
theorem adcAHL : Statement (.adcAHL) := .one rfl
theorem subR (r : Reg8) : Statement (.subR r) := .one rfl
theorem subHL : Statement (.subHL) := .one rfl
theorem sbcAR (r : Reg8) : Statement (.sbcAR r) := .one rfl
theorem sbcAHL : Statement (.sbcAHL) := .one rfl
theorem andR (r : Reg8) : Statement (.andR r) := .one rfl
theorem andHL : Statement (.andHL) := .one rfl
theorem xorR (r : Reg8) : Statement (.xorR r) := .one rfl
theorem xorHL : Statement (.xorHL) := .one rfl
theorem orR (r : Reg8) : Statement (.orR r) := .one rfl
theorem orHL : Statement (.orHL) := .one rfl
theorem cpR (r : Reg8) : Statement (.cpR r) := .one rfl
theorem cpHL : Statement (.cpHL) := .one rfl
theorem retCc (cc : Cond) : Statement (.retCc cc) := .one rfl
theorem popRr (q : QQ) : Statement (.popRr q) := .one rfl
theorem jpCcNn (cc : Cond) (nn : Word) : Statement (.jpCcNn cc nn) := .three rfl
theorem jpNn (nn : Word) : Statement (.jpNn nn) := .three rfl
theorem callCcNn (cc : Cond) (nn : Word) : Statement (.callCcNn cc nn) := .three rfl
theorem pushQq (q : QQ) : Statement (.pushQq q) := .one rfl
theorem addAN (n : Byte) : Statement (.addAN n) := .two rfl
theorem rst (v : Byte) : Statement (.rst v) := .one rfl
theorem ret : Statement (.ret) := .one rfl
theorem cbPrefix : Statement (.cbPrefix) := .one rfl
theorem callNn (nn : Word) : Statement (.callNn nn) := .three rfl
theorem adcAN (n : Byte) : Statement (.adcAN n) := .two rfl
theorem unassignedD3 : Statement (.unassignedD3) := .one rfl
theorem subN (n : Byte) : Statement (.subN n) := .two rfl
theorem reti : Statement (.reti) := .one rfl
theorem unassignedDB : Statement (.unassignedDB) := .one rfl
theorem unassignedDD : Statement (.unassignedDD) := .one rfl
theorem sbcAN (n : Byte) : Statement (.sbcAN n) := .two rfl
theorem ldhNA (n : Byte) : Statement (.ldhNA n) := .two rfl
theorem ldCA : Statement (.ldCA) := .one rfl
theorem unassignedE3 : Statement (.unassignedE3) := .one rfl
theorem unassignedE4 : Statement (.unassignedE4) := .one rfl
theorem andN (n : Byte) : Statement (.andN n) := .two rfl
theorem addSPE (e : Byte) : Statement (.addSPE e) := .two rfl
theorem jpHL : Statement (.jpHL) := .one rfl
theorem ldNnA (nn : Word) : Statement (.ldNnA nn) := .three rfl
theorem unassignedEB : Statement (.unassignedEB) := .one rfl
theorem unassignedEC : Statement (.unassignedEC) := .one rfl
theorem unassignedED : Statement (.unassignedED) := .one rfl
theorem xorN (n : Byte) : Statement (.xorN n) := .two rfl
theorem ldhAN (n : Byte) : Statement (.ldhAN n) := .two rfl
theorem popAF : Statement (.popAF) := .one rfl
theorem ldAC : Statement (.ldAC) := .one rfl
theorem di : Statement (.di) := .one rfl
theorem unassignedF4 : Statement (.unassignedF4) := .one rfl
theorem orN (n : Byte) : Statement (.orN n) := .two rfl
theorem ldHLSPE (e : Byte) : Statement (.ldHLSPE e) := .two rfl
theorem ldSPHL : Statement (.ldSPHL) := .one rfl
theorem ldANn (nn : Word) : Statement (.ldANn nn) := .three rfl
theorem ei : Statement (.ei) := .one rfl
theorem unassignedFC : Statement (.unassignedFC) := .one rfl
theorem unassignedFD : Statement (.unassignedFD) := .one rfl
theorem cpN (n : Byte) : Statement (.cpN n) := .two rfl
theorem rlcR (r : Reg8) : Statement (.rlcR r) := .two rfl
theorem rlcHL : Statement (.rlcHL) := .two rfl
theorem rrcR (r : Reg8) : Statement (.rrcR r) := .two rfl
theorem rrcHL : Statement (.rrcHL) := .two rfl
theorem rlR (r : Reg8) : Statement (.rlR r) := .two rfl
theorem rlHL : Statement (.rlHL) := .two rfl
theorem rrR (r : Reg8) : Statement (.rrR r) := .two rfl
theorem rrHL : Statement (.rrHL) := .two rfl
theorem slaR (r : Reg8) : Statement (.slaR r) := .two rfl
theorem unassignedCB26 : Statement (.unassignedCB26) := .two rfl
theorem sraR (r : Reg8) : Statement (.sraR r) := .two rfl
theorem unassignedCB2E : Statement (.unassignedCB2E) := .two rfl
theorem sllR (r : Reg8) : Statement (.sllR r) := .two rfl
theorem unassignedCB36 : Statement (.unassignedCB36) := .two rfl
theorem srlR (r : Reg8) : Statement (.srlR r) := .two rfl
theorem unassignedCB3E : Statement (.unassignedCB3E) := .two rfl
theorem bitR (b : Nat) (r : Reg8) : Statement (.bitR b r) := .two rfl
theorem bitHL (b : Nat) : Statement (.bitHL b) := .two rfl
theorem resR (b : Nat) (r : Reg8) : Statement (.resR b r) := .two rfl
theorem resHL (b : Nat) : Statement (.resHL b) := .two rfl
theorem setR (b : Nat) (r : Reg8) : Statement (.setR b r) := .two rfl
theorem setHL (b : Nat) : Statement (.setHL b) := .two rfl

end Sys2Proof.Laws.EncodeLength
end

