-- ==== Sys2Proof/Tests/Slice0.lean ====
section
/-! SUPPORT. The model's own tests: what WellFormed refuses, words written out from the spec's encodings, one step of the
vectors of 95_test_vectors.md (each named after its vector; the expected result is the spec's), and for every statement with
hypotheses a state and operands that meet them. -/

namespace Sys2Proof.Tests

open Sys2Proof.Machine Sys2Proof.Claim

/-! ### Small states -/

/-- The state T0 of 95_test_vectors.md with bytes from 0xC000 on and `pc` there. -/
def cpu (bytes : List Byte) : State := { State.reset with inbios := false, sp := 0xD000, pc := 0xC000 }.placeBytes 0xC000 bytes

/-- The same with the code at another address, the latch as given. -/
def cpuAt (latch : Bool) (addr : Word) (bytes : List Byte) : State :=
  { State.reset with inbios := latch, sp := 0xD000, pc := addr }.placeBytes addr bytes

/-- A byte put in the cell an address reads. -/
def put (s : State) (addr : Word) (v : Byte) : State := s.poke (locate s.inbios addr) v

/-- One step from `s` ends in `t` with `pc` and the cost as given (and the clock, 0 before, equal to the cost), status `ok`. -/
def stepsTo (s t : State) (n : Nat) (pc : Word) : Bool :=
  match step s with
  | .next u => decide (u = { t with pc := pc, m := n, t := 4 * n, clockM := n, clockT := 4 * n }) && decide (stepStatus s = .ok)
  | .fault _ => false
  | .refused _ => false

/-- One step from `s` ends in exactly `t` with the given status. -/
def ends (s t : State) (st : Status) : Bool :=
  match step s with
  | .next u => decide (u = t) && decide (stepStatus s = st)
  | .fault _ => false
  | .refused _ => false

/-- The state after one step. -/
def after (s : State) : State :=
  match step s with
  | .next t => t
  | .fault _ => s
  | .refused _ => s

/-- The instruction that bytes are, if nothing is left over. -/
def whole (bytes : List Byte) : Option Instr :=
  match decode bytes with
  | .ok (i, []) => some i
  | .ok (_, _ :: _) => none
  | .error _ => none

/-- Each of the byte lists is the instruction beside it. -/
def reads (rows : List (List Byte × Instr)) : Bool := rows.all fun row => decide (whole row.1 = some row.2)

/-! ### WellFormed: an ill-formed term for each check -/

theorem test_wf_refuses_bit8 :
    [Instr.bitR 8 .b, .bitHL 8, .resR 8 .b, .resHL 8, .setR 8 .b, .setHL 8].map Instr.wf = List.replicate 6 false := by decide

theorem test_wf_refuses_rst : [Instr.rst 0x01, .rst 0x40, .rst 0x39].map Instr.wf = List.replicate 3 false := by decide

theorem test_wf_refuses_popRr_af : (Instr.popRr .af).wf = false := by decide

theorem test_wf_accepts : [Instr.bitR 7 .a, .setHL 0, .rst 0x38, .rst 0x00, .popRr .hl, .popAF].map Instr.wf =
    List.replicate 6 true := by decide

/-! ### Decoding: words written out from the encodings, every constructor at least once -/


theorem test_decode_load8 : reads
    [([0b01000001], .ldRR .b .c), ([0b01111101], .ldRR .a .l), ([0b01100110], .ldRHL .h), ([0b01110011], .ldHLR .e),
      ([0b00010110, 0xFF], .ldRN .d 0xFF), ([0x36, 0x42], .ldHLN 0x42), ([0x0A], .ldABC), ([0x1A], .ldADE), ([0x02], .ldBCA),
      ([0x12], .ldDEA), ([0x22], .ldiHLA), ([0x2A], .ldiAHL), ([0x32], .lddHLA), ([0x3A], .lddAHL),
      ([0xE0, 0x80], .ldhNA 0x80), ([0xF0, 0xFF], .ldhAN 0xFF), ([0xE2], .ldCA), ([0xF2], .ldAC),
      ([0xEA, 0x34, 0xA2], .ldNnA 0xA234), ([0xFA, 0x10, 0xE0], .ldANn 0xE010)] = true := by decide

theorem test_decode_load16 : reads
    [([0b00000001, 0x34, 0x12], .ldRrNn .bc 0x1234), ([0b00110001, 0xFE, 0xFF], .ldRrNn .sp 0xFFFE),
      ([0x08, 0x00, 0xC1], .ldNnSP 0xC100), ([0xF9], .ldSPHL), ([0xF8, 0x01], .ldHLSPE 0x01)] = true := by decide

theorem test_decode_incDec : reads
    [([0b00111100], .incR .a), ([0b00000101], .decR .b), ([0x34], .incHL), ([0x35], .decHL), ([0b00100011], .incRr .hl),
      ([0b00111011], .decRr .sp)] = true := by decide

theorem test_decode_alu8 : reads
    [([0b10000011], .addAR .e), ([0x86], .addAHL), ([0xC6, 0x80], .addAN 0x80), ([0b10001000], .adcAR .b), ([0x8E], .adcAHL),
      ([0xCE, 0xFF], .adcAN 0xFF), ([0b10010111], .subR .a), ([0x96], .subHL), ([0xD6, 0x0F], .subN 0x0F),
      ([0b10011001], .sbcAR .c), ([0x9E], .sbcAHL), ([0xDE, 0xFF], .sbcAN 0xFF), ([0b10100000], .andR .b), ([0xA6], .andHL),
      ([0xE6, 0x0F], .andN 0x0F), ([0b10101111], .xorR .a), ([0xAE], .xorHL), ([0xEE, 0xFF], .xorN 0xFF),
      ([0b10110001], .orR .c), ([0xB6], .orHL), ([0xF6, 0x00], .orN 0x00), ([0b10111000], .cpR .b), ([0xBE], .cpHL),
      ([0xFE, 0x90], .cpN 0x90), ([0x27], .daa), ([0x2F], .cpl), ([0x37], .scf), ([0x3F], .ccf)] = true := by decide

theorem test_decode_bit : reads
    [([0xCB, 0b01111100], .bitR 7 .h), ([0xCB, 0b01011110], .bitHL 3), ([0xCB, 0b10000111], .resR 0 .a),
      ([0xCB, 0b10111110], .resHL 7), ([0xCB, 0b11100000], .setR 4 .b), ([0xCB, 0b11000110], .setHL 0)] = true := by decide

theorem test_decode_rotate : reads
    [([0x07], .rlca), ([0x17], .rla), ([0x0F], .rrca), ([0x1F], .rra), ([0xCB, 0b00000000], .rlcR .b),
      ([0xCB, 0x06], .rlcHL), ([0xCB, 0b00001001], .rrcR .c), ([0xCB, 0x0E], .rrcHL), ([0xCB, 0b00010010], .rlR .d),
      ([0xCB, 0x16], .rlHL), ([0xCB, 0b00011011], .rrR .e), ([0xCB, 0x1E], .rrHL), ([0xCB, 0b00100100], .slaR .h),
      ([0xCB, 0b00101101], .sraR .l), ([0xCB, 0b00110111], .sllR .a), ([0xCB, 0b00111000], .srlR .b)] = true := by decide

theorem test_decode_arith16_stack : reads
    [([0b00001001], .addHLRr .bc), ([0b00111001], .addHLRr .sp), ([0xE8, 0x80], .addSPE 0x80), ([0b11000101], .pushQq .bc),
      ([0b11110101], .pushQq .af), ([0b11100001], .popRr .hl), ([0xF1], .popAF)] = true := by decide

theorem test_decode_control : reads
    [([0xC3, 0x50, 0x01], .jpNn 0x0150), ([0b11000010, 0x00, 0x80], .jpCcNn .nz 0x8000), ([0xE9], .jpHL),
      ([0x18, 0xFE], .jr 0xFE), ([0b00111000, 0x02], .jrCc .c 0x02), ([0x10, 0xFE], .djnz 0xFE),
      ([0xCD, 0x00, 0xC2], .callNn 0xC200), ([0b11011100, 0x00, 0xC2], .callCcNn .c 0xC200), ([0xC9], .ret), ([0xD9], .reti),
      ([0b11010000], .retCc .nc), ([0b11101111], .rst 0x28)] = true := by decide

theorem test_decode_meta : reads
    [([0x00], .nop), ([0x76], .halt), ([0xF3], .di), ([0xFB], .ei), ([0xD3], .unassignedD3), ([0xDB], .unassignedDB),
      ([0xDD], .unassignedDD), ([0xE3], .unassignedE3), ([0xE4], .unassignedE4), ([0xEB], .unassignedEB),
      ([0xEC], .unassignedEC), ([0xED], .unassignedED), ([0xF4], .unassignedF4), ([0xFC], .unassignedFC),
      ([0xFD], .unassignedFD), ([0xCB, 0x26], .unassignedCB26), ([0xCB, 0x2E], .unassignedCB2E),
      ([0xCB, 0x36], .unassignedCB36), ([0xCB, 0x3E], .unassignedCB3E)] = true := by decide

theorem test_decode_prefix : decodePrimary [0xCB, 0x37] = .ok (.cbPrefix, [0x37]) ∧ decode [0xCB] = .error .truncated ∧
    decode [0x21, 0x34] = .error .truncated ∧ decode [] = .error .noOpcode := ⟨rfl, rfl, rfl, rfl⟩

/-- The opcode table's numbering (30_encoding.md R112). -/
theorem test_decodeTableWord : [decodeTableWord 8 0x83, decodeTableWord 8 0xCB, decodeTableWord 16 0xCB7C, decodeTableWord 24 0x123421,
    decodeTableWord 8 0x21] = [some (.addAR .e), some .cbPrefix, some (.bitR 7 .h), some (.ldRrNn .hl 0x1234), some (.ldRrNn .hl 0)] := by
  decide

/-- A placed word is what the next step runs, from power-on too, where the bytes go to the BIOS. -/
theorem test_withFetchWord : stepsTo (State.reset.withFetchWord 8 0x3C) { State.reset.withFetchWord 8 0x3C with a := 0x01 } 1 0x0001 = true ∧
    stepsTo (State.reset.withFetchWord 16 0xCB37) { State.reset.withFetchWord 16 0xCB37 with a := 0x01 } 2 0x0002 = true := by
  decide

/-! ### Single steps: the vectors of 95_test_vectors.md -/

/-- `LD B,C` (R121): no flag changes. -/
theorem test_L1 :
    let s := { cpu [0x41] with b := 0x11, c := 0x22, f := 0xF0 };
      stepsTo s { s with b := 0x22 } 1 0xC001 = true := by
  decide

/-- `LD A,(HL)` (R122). -/
theorem test_L3 :
    let s := (put { cpu [0x7E] with h := 0xC1, l := 0x00 } 0xC100 0x99);
      stepsTo s { s with a := 0x99 } 2 0xC001 = true := by
  decide

/-- `LD H,(HL)` (R122): address formed before `h` is written. -/
theorem test_L4 :
    let s := (put { cpu [0x66] with h := 0xC1, l := 0x00 } 0xC100 0x99);
      stepsTo s { s with h := 0x99 } 2 0xC001 = true := by
  decide

/-- `LD (HL),E` (R123). -/
theorem test_L5 :
    let s := { cpu [0x73] with h := 0xC1, l := 0x00, e := 0x77 };
      stepsTo s (put s 0xC100 0x77) 2 0xC001 = true := by
  decide

/-- `LD (HL),B` (R123): ROM address: write ignored. -/
theorem test_L7 : let s := { cpu [0x70] with h := 0x40, l := 0x00, b := 0x77 }; stepsTo s s 2 0xC001 = true := by decide

/-- `LD D,0xFF` (R124). -/
theorem test_L8 : let s := (cpu [0x16, 0xFF]); stepsTo s { s with d := 0xFF } 2 0xC002 = true := by decide

/-- `LD (HL),0x42` (R125): zero-page RAM. -/
theorem test_L9 :
    let s := { cpu [0x36, 0x42] with h := 0xFF, l := 0x80 };
      stepsTo s (put s 0xFF80 0x42) 3 0xC002 = true := by
  decide

/-- `LD A,(BC)` (R126): read through the shadow. -/
theorem test_L10 :
    let s := (put { cpu [0x0A] with b := 0xE0, c := 0x10 } 0xC010 0x3C);
      stepsTo s { s with a := 0x3C } 2 0xC001 = true := by
  decide

/-- `LD A,(DE)` (R127): I/O stub reads 0. -/
theorem test_L11 :
    let s := { cpu [0x1A] with d := 0xFF, e := 0x00, a := 0x55 };
      stepsTo s { s with a := 0x00 } 2 0xC001 = true := by
  decide

/-- `LD (BC),A` (R128): video RAM. -/
theorem test_L12 :
    let s := { cpu [0x02] with b := 0x80, c := 0x00, a := 0xAA };
      stepsTo s (put s 0x8000 0xAA) 2 0xC001 = true := by
  decide

/-- `LD (DE),A` (R129): OAM tail: write ignored. -/
theorem test_L13 : let s := { cpu [0x12] with d := 0xFE, e := 0xA0, a := 0xAA }; stepsTo s s 2 0xC001 = true := by decide

/-- `LDI (HL),A` (R130): `hl` wraps to 0x0000. -/
theorem test_L14 :
    let s := { cpu [0x22] with h := 0xFF, l := 0xFF, a := 0x12 };
      stepsTo s (put { s with h := 0x00, l := 0x00 } 0xFFFF 0x12) 2 0xC001 = true := by
  decide

/-- `LDI A,(HL)` (R131). -/
theorem test_L15 :
    let s := (put { cpu [0x2A] with h := 0xC0, l := 0xFF } 0xC0FF 0x34);
      stepsTo s { s with a := 0x34, h := 0xC1, l := 0x00 } 2 0xC001 = true := by
  decide

/-- `LDD (HL),A` (R132): overwrites its own opcode byte after it was fetched. -/
theorem test_L16 :
    let s := { cpu [0x32] with h := 0xC0, l := 0x00, a := 0x76 };
      stepsTo s (put { s with h := 0xBF, l := 0xFF } 0xC000 0x76) 2 0xC001 = true := by
  decide

/-- `LDD A,(HL)` (R133): `hl` wraps to 0xFFFF; `inbios = 0` so ROM is read. -/
theorem test_L17 :
    let s := (put { cpu [0x3A] with h := 0x00, l := 0x00 } 0x0000 0x31);
      stepsTo s { s with a := 0x31, h := 0xFF, l := 0xFF } 2 0xC001 = true := by
  decide

/-- `LDH (0x80),A` (R134). -/
theorem test_L18 : let s := { cpu [0xE0, 0x80] with a := 0x9C }; stepsTo s (put s 0xFF80 0x9C) 3 0xC002 = true := by decide

/-- `LDH (0x40),A` (R134): I/O stub: write ignored. -/
theorem test_L19 : let s := { cpu [0xE0, 0x40] with a := 0x9C }; stepsTo s s 3 0xC002 = true := by decide

/-- `LDH A,(0xFF)` (R135): 0xFFFF is plain zero-page RAM. -/
theorem test_L20 :
    let s := (put { cpu [0xF0, 0xFF] with a := 0x00 } 0xFFFF 0x1F);
      stepsTo s { s with a := 0x1F } 3 0xC002 = true := by
  decide

/-- `LD (C),A` (R136). -/
theorem test_L21 :
    let s := { cpu [0xE2] with c := 0x90, a := 0x66 };
      stepsTo s (put s 0xFF90 0x66) 2 0xC001 = true := by
  decide

/-- `LD A,(C)` (R137): I/O stub reads 0. -/
theorem test_L22 :
    let s := { cpu [0xF2] with c := 0x00, a := 0x66 };
      stepsTo s { s with a := 0x00 } 2 0xC001 = true := by
  decide

/-- `LD (0xA234),A` (R138): external RAM. -/
theorem test_L23 :
    let s := { cpu [0xEA, 0x34, 0xA2] with a := 0x5E };
      stepsTo s (put s 0xA234 0x5E) 4 0xC003 = true := by
  decide

/-- `LD A,(0xE010)` (R139). -/
theorem test_L24 :
    let s := (put (cpu [0xFA, 0x10, 0xE0]) 0xC010 0x42);
      stepsTo s { s with a := 0x42 } 4 0xC003 = true := by
  decide

/-- `LD BC,0x1234` (R150): low byte first in the stream. -/
theorem test_W1 : let s := (cpu [0x01, 0x34, 0x12]); stepsTo s { s with b := 0x12, c := 0x34 } 3 0xC003 = true := by decide

/-- `LD SP,0xFFFE` (R150). -/
theorem test_W2 : let s := (cpu [0x31, 0xFE, 0xFF]); stepsTo s { s with sp := 0xFFFE } 3 0xC003 = true := by decide

/-- `LD (0xC100),SP` (R151). -/
theorem test_W4 :
    let s := { cpu [0x08, 0x00, 0xC1] with sp := 0xABCD };
      stepsTo s (put (put s 0xC100 0xCD) 0xC101 0xAB) 5 0xC003 = true := by
  decide

/-- `LD (0xFFFF),SP` (R151): high byte goes to 0x0000: ROM, ignored. -/
theorem test_W5 :
    let s := { cpu [0x08, 0xFF, 0xFF] with sp := 0xABCD };
      stepsTo s (put s 0xFFFF 0xCD) 5 0xC003 = true := by
  decide

/-- `LD SP,HL` (R152). -/
theorem test_W6 :
    let s := { cpu [0xF9] with h := 0xDF, l := 0xF0 };
      stepsTo s { s with sp := 0xDFF0 } 2 0xC001 = true := by
  decide

/-- `LD HL,SP+1` (R153): low-byte carry: 0xFF + 0x01 > 0xFF. -/
theorem test_W7 :
    let s := { cpu [0xF8, 0x01] with sp := 0x00FF, f := 0xF0 };
      stepsTo s { s with f := 0x10, h := 0x01 } 3 0xC002 = true := by
  decide

/-- `LD HL,SP-1` (R153): 0x00 + 0xFF = 0xFF: no carry; result wraps. -/
theorem test_W8 :
    let s := { cpu [0xF8, 0xFF] with sp := 0x0000, f := 0x00 };
      stepsTo s { s with h := 0xFF, l := 0xFF } 3 0xC002 = true := by
  decide

/-- `INC A` (R170): `C` kept, not set by the wrap. -/
theorem test_I1 :
    let s := { cpu [0x3C] with a := 0xFF, f := 0x10 };
      stepsTo s { s with a := 0x00, f := 0x90 } 1 0xC001 = true := by
  decide

/-- `DEC B` (R171). -/
theorem test_I3 :
    let s := { cpu [0x05] with b := 0x01, f := 0x00 };
      stepsTo s { s with f := 0xC0, b := 0x00 } 1 0xC001 = true := by
  decide

/-- `DEC C` (R171): `H` and `C` kept. -/
theorem test_I4 :
    let s := { cpu [0x0D] with c := 0x00, f := 0x30 };
      stepsTo s { s with f := 0x70, c := 0xFF } 1 0xC001 = true := by
  decide

/-- `INC (HL)` (R172). -/
theorem test_I5 :
    let s := (put { cpu [0x34] with h := 0xC1, l := 0x00, f := 0x00 } 0xC100 0xFF);
      stepsTo s (put { s with f := 0x80 } 0xC100 0x00) 3 0xC001 = true := by
  decide

/-- `DEC (HL)` (R173). -/
theorem test_I6 :
    let s := (put { cpu [0x35] with h := 0xC1, l := 0x00, f := 0x00 } 0xC100 0x00);
      stepsTo s (put { s with f := 0x40 } 0xC100 0xFF) 3 0xC001 = true := by
  decide

/-- `DEC (HL)` (R173): ROM: the write is ignored, `Z` comes from the computed value. -/
theorem test_I7 :
    let s := (put { cpu [0x35] with h := 0x01, l := 0x50, f := 0x00 } 0x0150 0x01);
      stepsTo s { s with f := 0xC0 } 3 0xC001 = true := by
  decide

/-- `INC (HL)` (R172): I/O stub: reads 0, computes 1, write ignored. -/
theorem test_I8 :
    let s := { cpu [0x34] with h := 0xFF, l := 0x10, f := 0x80 };
      stepsTo s { s with f := 0x00 } 3 0xC001 = true := by
  decide

/-- `INC BC` (R174): no flags. -/
theorem test_I9 :
    let s := { cpu [0x03] with b := 0xFF, c := 0xFF, f := 0x00 };
      stepsTo s { s with b := 0x00, c := 0x00 } 2 0xC001 = true := by
  decide

/-- `DEC SP` (R175). -/
theorem test_I11 : let s := { cpu [0x3B] with sp := 0x0000 }; stepsTo s { s with sp := 0xFFFF } 2 0xC001 = true := by decide

/-- `DEC DE` (R175). -/
theorem test_I12 :
    let s := { cpu [0x1B] with d := 0x01, e := 0x00, f := 0xF0 };
      stepsTo s { s with d := 0x00, e := 0xFF } 2 0xC001 = true := by
  decide

/-- `ADD A,E` (R180): the source's example S3. -/
theorem test_A1 :
    let s := { cpu [0x83] with a := 0xFF, e := 0x01, f := 0x00 };
      stepsTo s { s with a := 0x00, f := 0x90 } 1 0xC001 = true := by
  decide

/-- `ADD A,(HL)` (R181). -/
theorem test_A4 :
    let s := (put { cpu [0x86] with a := 0x10, h := 0xC1, l := 0x00, f := 0x00 } 0xC100 0x22);
      stepsTo s { s with a := 0x32 } 2 0xC001 = true := by
  decide

/-- `ADD A,0x80` (R182). -/
theorem test_A5 :
    let s := { cpu [0xC6, 0x80] with a := 0x80, f := 0x00 };
      stepsTo s { s with a := 0x00, f := 0x90 } 2 0xC002 = true := by
  decide

/-- `ADC A,B` (R183): carry-in alone overflows. -/
theorem test_A6 :
    let s := { cpu [0x88] with a := 0xFF, b := 0x00, f := 0x10 };
      stepsTo s { s with a := 0x00, f := 0x90 } 1 0xC001 = true := by
  decide

/-- `ADC A,(HL)` (R184). -/
theorem test_A8 :
    let s := (put { cpu [0x8E] with a := 0x7F, h := 0xC1, l := 0x00, f := 0x10 } 0xC100 0x80);
      stepsTo s { s with a := 0x00, f := 0x90 } 2 0xC001 = true := by
  decide

/-- `ADC A,0xFF` (R185): temporary 0x1FF. -/
theorem test_A9 : let s := { cpu [0xCE, 0xFF] with a := 0xFF, f := 0x10 }; stepsTo s s 2 0xC002 = true := by decide

/-- `SUB B` (R186). -/
theorem test_A10 :
    let s := { cpu [0x90] with a := 0x3E, b := 0x3E, f := 0x00 };
      stepsTo s { s with a := 0x00, f := 0xC0 } 1 0xC001 = true := by
  decide

/-- `SUB (HL)` (R187). -/
theorem test_A12 :
    let s := (put { cpu [0x96] with a := 0x00, h := 0xC1, l := 0x00, f := 0x00 } 0xC100 0x01);
      stepsTo s { s with a := 0xFF, f := 0x50 } 2 0xC001 = true := by
  decide

/-- `SUB 0x0F` (R188): nibble borrow: `H` still 0. -/
theorem test_A13 :
    let s := { cpu [0xD6, 0x0F] with a := 0x10, f := 0x00 };
      stepsTo s { s with a := 0x01, f := 0x40 } 2 0xC002 = true := by
  decide

/-- `SBC A,C` (R189): borrow-in alone underflows. -/
theorem test_A14 :
    let s := { cpu [0x99] with a := 0x00, c := 0x00, f := 0x10 };
      stepsTo s { s with a := 0xFF, f := 0x50 } 1 0xC001 = true := by
  decide

/-- `SBC A,(HL)` (R190). -/
theorem test_A15 :
    let s := (put { cpu [0x9E] with a := 0x10, h := 0xC1, l := 0x00, f := 0x10 } 0xC100 0x0F);
      stepsTo s { s with a := 0x00, f := 0xC0 } 2 0xC001 = true := by
  decide

/-- `SBC A,0xFF` (R191): temporary -256. -/
theorem test_A16 :
    let s := { cpu [0xDE, 0xFF] with a := 0x00, f := 0x10 };
      stepsTo s { s with f := 0xD0 } 2 0xC002 = true := by
  decide

/-- `AND B` (R192). -/
theorem test_A17 :
    let s := { cpu [0xA0] with a := 0xF0, b := 0x0F, f := 0x70 };
      stepsTo s { s with a := 0x00, f := 0x80 } 1 0xC001 = true := by
  decide

/-- `AND (HL)` (R193): `H` 0, not 1 (D8). -/
theorem test_A18 :
    let s := (put { cpu [0xA6] with a := 0xFF, h := 0xC1, l := 0x00, f := 0xF0 } 0xC100 0x81);
      stepsTo s { s with a := 0x81, f := 0x00 } 2 0xC001 = true := by
  decide

/-- `AND 0x0F` (R194). -/
theorem test_A19 :
    let s := { cpu [0xE6, 0x0F] with a := 0x3C, f := 0x00 };
      stepsTo s { s with a := 0x0C } 2 0xC002 = true := by
  decide

/-- `XOR A` (R195). -/
theorem test_A20 :
    let s := { cpu [0xAF] with a := 0x5A, f := 0x70 };
      stepsTo s { s with a := 0x00, f := 0x80 } 1 0xC001 = true := by
  decide

/-- `XOR (HL)` (R196). -/
theorem test_A21 :
    let s := (put { cpu [0xAE] with a := 0xFF, h := 0xC1, l := 0x00, f := 0x10 } 0xC100 0x0F);
      stepsTo s { s with a := 0xF0, f := 0x00 } 2 0xC001 = true := by
  decide

/-- `XOR 0xFF` (R197). -/
theorem test_A22 :
    let s := { cpu [0xEE, 0xFF] with a := 0xAA, f := 0x00 };
      stepsTo s { s with a := 0x55 } 2 0xC002 = true := by
  decide

/-- `OR C` (R198). -/
theorem test_A23 :
    let s := { cpu [0xB1] with a := 0x00, c := 0x00, f := 0x70 };
      stepsTo s { s with f := 0x80 } 1 0xC001 = true := by
  decide

/-- `OR (HL)` (R199). -/
theorem test_A24 :
    let s := (put { cpu [0xB6] with a := 0x01, h := 0xC1, l := 0x00, f := 0x00 } 0xC100 0x80);
      stepsTo s { s with a := 0x81 } 2 0xC001 = true := by
  decide

/-- `OR 0x00` (R200). -/
theorem test_A25 :
    let s := { cpu [0xF6, 0x00] with a := 0x00, f := 0x10 };
      stepsTo s { s with f := 0x80 } 2 0xC002 = true := by
  decide

/-- `CP B` (R201): the source's example S4; `a` kept. -/
theorem test_A26 :
    let s := { cpu [0xB8] with a := 0x05, b := 0x0A, f := 0x00 };
      stepsTo s { s with f := 0x50 } 1 0xC001 = true := by
  decide

/-- `CP (HL)` (R202). -/
theorem test_A28 :
    let s := (put { cpu [0xBE] with a := 0x80, h := 0xC1, l := 0x00, f := 0x00 } 0xC100 0x7F);
      stepsTo s { s with f := 0x40 } 2 0xC001 = true := by
  decide

/-- `CP 0x90` (R203). -/
theorem test_A29 :
    let s := { cpu [0xFE, 0x90] with a := 0x90, f := 0x00 };
      stepsTo s { s with f := 0xC0 } 2 0xC002 = true := by
  decide

/-- `DAA` (R204): both corrections. -/
theorem test_A31 :
    let s := { cpu [0x27] with a := 0x9A, f := 0x00 };
      stepsTo s { s with a := 0x00, f := 0x90 } 1 0xC001 = true := by
  decide

/-- `DAA` (R204): `N = 1`, `H = 1` (reachable only through `POP AF`): - 0x06. -/
theorem test_A34 :
    let s := { cpu [0x27] with a := 0x0F, f := 0x60 };
      stepsTo s { s with a := 0x09, f := 0x40 } 1 0xC001 = true := by
  decide

/-- `CPL` (R205). -/
theorem test_A35 :
    let s := { cpu [0x2F] with a := 0x35, f := 0x90 };
      stepsTo s { s with a := 0xCA, f := 0xD0 } 1 0xC001 = true := by
  decide

/-- `SCF` (R206). -/
theorem test_A36 : let s := { cpu [0x37] with f := 0xE0 }; stepsTo s { s with f := 0x90 } 1 0xC001 = true := by decide

/-- `CCF` (R207). -/
theorem test_A37 : let s := { cpu [0x3F] with f := 0xF0 }; stepsTo s { s with f := 0x80 } 1 0xC001 = true := by decide

/-- `CCF` (R207). -/
theorem test_A38 : let s := { cpu [0x3F] with f := 0x00 }; stepsTo s { s with f := 0x10 } 1 0xC001 = true := by decide

/-- `BIT 7,H` (R220). -/
theorem test_B1 : let s := { cpu [0xCB, 0x7C] with h := 0x80, f := 0x00 }; stepsTo s s 2 0xC002 = true := by decide

/-- `BIT 0,A` (R220): `C` kept; `N`, `H` written 0. -/
theorem test_B2 :
    let s := { cpu [0xCB, 0x47] with a := 0xFE, f := 0x70 };
      stepsTo s { s with f := 0x90 } 2 0xC002 = true := by
  decide

/-- `BIT 3,(HL)` (R221). -/
theorem test_B3 :
    let s := (put { cpu [0xCB, 0x5E] with h := 0xC1, l := 0x00, f := 0x10 } 0xC100 0x08);
      stepsTo s s 3 0xC002 = true := by
  decide

/-- `RES 0,A` (R222): no flags. -/
theorem test_B5 :
    let s := { cpu [0xCB, 0x87] with a := 0xFF, f := 0xF0 };
      stepsTo s { s with a := 0xFE } 2 0xC002 = true := by
  decide

/-- `RES 7,(HL)` (R223). -/
theorem test_B6 :
    let s := (put { cpu [0xCB, 0xBE] with h := 0xC1, l := 0x00 } 0xC100 0xFF);
      stepsTo s (put s 0xC100 0x7F) 4 0xC002 = true := by
  decide

/-- `SET 4,B` (R224). -/
theorem test_B7 : let s := { cpu [0xCB, 0xE0] with b := 0x00 }; stepsTo s { s with b := 0x10 } 2 0xC002 = true := by decide

/-- `SET 1,E` (R224): second byte `0xCB` is not a prefix. -/
theorem test_B8 : let s := { cpu [0xCB, 0xCB] with e := 0x00 }; stepsTo s { s with e := 0x02 } 2 0xC002 = true := by decide

/-- `SET 0,(HL)` (R225): ROM: read 0, write ignored. -/
theorem test_B9 : let s := { cpu [0xCB, 0xC6] with h := 0x20, l := 0x00 }; stepsTo s s 4 0xC002 = true := by decide

/-- `RLCA` (R230). -/
theorem test_S1 :
    let s := { cpu [0x07] with a := 0x80, f := 0x00 };
      stepsTo s { s with a := 0x01, f := 0x10 } 1 0xC001 = true := by
  decide

/-- `RLCA` (R230): `Z N H` untouched even though `a = 0`. -/
theorem test_S2 :
    let s := { cpu [0x07] with a := 0x00, f := 0xF0 };
      stepsTo s { s with f := 0xE0 } 1 0xC001 = true := by
  decide

/-- `RLA` (R231). -/
theorem test_S3 :
    let s := { cpu [0x17] with a := 0x80, f := 0x10 };
      stepsTo s { s with a := 0x01 } 1 0xC001 = true := by
  decide

/-- `RLA` (R231): `a` becomes 0 and `Z` stays 0. -/
theorem test_S4 :
    let s := { cpu [0x17] with a := 0x80, f := 0x00 };
      stepsTo s { s with a := 0x00, f := 0x10 } 1 0xC001 = true := by
  decide

/-- `RRCA` (R232). -/
theorem test_S5 :
    let s := { cpu [0x0F] with a := 0x01, f := 0x00 };
      stepsTo s { s with a := 0x80, f := 0x10 } 1 0xC001 = true := by
  decide

/-- `RRA` (R233). -/
theorem test_S6 :
    let s := { cpu [0x1F] with a := 0x01, f := 0x10 };
      stepsTo s { s with a := 0x80 } 1 0xC001 = true := by
  decide

/-- `RLC B` (R234). -/
theorem test_S8 :
    let s := { cpu [0xCB, 0x00] with b := 0x80, f := 0x00 };
      stepsTo s { s with f := 0x10, b := 0x01 } 2 0xC002 = true := by
  decide

/-- `RLC A` (R234): unlike `RLCA`, `Z` is computed. -/
theorem test_S9 :
    let s := { cpu [0xCB, 0x07] with a := 0x00, f := 0x70 };
      stepsTo s { s with f := 0x80 } 2 0xC002 = true := by
  decide

/-- `RLC (HL)` (R235). -/
theorem test_S10 :
    let s := (put { cpu [0xCB, 0x06] with h := 0xC1, l := 0x00, f := 0x00 } 0xC100 0x85);
      stepsTo s (put { s with f := 0x10 } 0xC100 0x0B) 4 0xC002 = true := by
  decide

/-- `RRC C` (R236). -/
theorem test_S11 :
    let s := { cpu [0xCB, 0x09] with c := 0x01, f := 0x00 };
      stepsTo s { s with f := 0x10, c := 0x80 } 2 0xC002 = true := by
  decide

/-- `RRC (HL)` (R237). -/
theorem test_S12 :
    let s := (put { cpu [0xCB, 0x0E] with h := 0xC1, l := 0x00, f := 0x10 } 0xC100 0x02);
      stepsTo s (put { s with f := 0x00 } 0xC100 0x01) 4 0xC002 = true := by
  decide

/-- `RL D` (R238): result 0: `Z = 1`, `C = 1`. -/
theorem test_S13 :
    let s := { cpu [0xCB, 0x12] with d := 0x80, f := 0x00 };
      stepsTo s { s with f := 0x90, d := 0x00 } 2 0xC002 = true := by
  decide

/-- `RL (HL)` (R239). -/
theorem test_S14 :
    let s := (put { cpu [0xCB, 0x16] with h := 0xC1, l := 0x00, f := 0x10 } 0xC100 0x40);
      stepsTo s (put { s with f := 0x00 } 0xC100 0x81) 4 0xC002 = true := by
  decide

/-- `RR E` (R240). -/
theorem test_S15 :
    let s := { cpu [0xCB, 0x1B] with e := 0x01, f := 0x10 };
      stepsTo s { s with e := 0x80 } 2 0xC002 = true := by
  decide

/-- `RR (HL)` (R241). -/
theorem test_S16 :
    let s := (put { cpu [0xCB, 0x1E] with h := 0xC1, l := 0x00, f := 0x00 } 0xC100 0x01);
      stepsTo s (put { s with f := 0x90 } 0xC100 0x00) 4 0xC002 = true := by
  decide

/-- `SLA H` (R242). -/
theorem test_S17 :
    let s := { cpu [0xCB, 0x24] with h := 0x80, f := 0x00 };
      stepsTo s { s with f := 0x90, h := 0x00 } 2 0xC002 = true := by
  decide

/-- `SRA L` (R243): bit 7 kept. -/
theorem test_S19 :
    let s := { cpu [0xCB, 0x2D] with l := 0x81, f := 0x00 };
      stepsTo s { s with f := 0x10, l := 0xC0 } 2 0xC002 = true := by
  decide

/-- `SLL A` (R244): bit 0 becomes 1. -/
theorem test_S21 :
    let s := { cpu [0xCB, 0x37] with a := 0x80, f := 0x00 };
      stepsTo s { s with a := 0x01, f := 0x10 } 2 0xC002 = true := by
  decide

/-- `SRL A` (R245). -/
theorem test_S23 :
    let s := { cpu [0xCB, 0x3F] with a := 0x01, f := 0x00 };
      stepsTo s { s with a := 0x00, f := 0x90 } 2 0xC002 = true := by
  decide

/-- `ADD HL,BC` (R260): sum 0x10000: `C = 1`; `Z N H` kept, `Z` not set by the zero result. -/
theorem test_H1 :
    let s := { cpu [0x09] with h := 0xFF, l := 0xFF, b := 0x00, c := 0x01, f := 0xE0 };
      stepsTo s { s with f := 0xF0, h := 0x00, l := 0x00 } 2 0xC001 = true := by
  decide

/-- `ADD HL,DE` (R260): no carry: `C` cleared; bit-11 carry not reported. -/
theorem test_H3 :
    let s := { cpu [0x19] with h := 0x0F, l := 0xFF, d := 0x00, e := 0x01, f := 0x10 };
      stepsTo s { s with f := 0x00, h := 0x10, l := 0x00 } 2 0xC001 = true := by
  decide

/-- `ADD SP,-1` (R261). -/
theorem test_H6 :
    let s := { cpu [0xE8, 0xFF] with sp := 0x0000, f := 0x00 };
      stepsTo s { s with sp := 0xFFFF } 4 0xC002 = true := by
  decide

/-- `ADD SP,-128` (R261). -/
theorem test_H7 :
    let s := { cpu [0xE8, 0x80] with sp := 0xD080, f := 0x00 };
      stepsTo s { s with f := 0x10, sp := 0xD000 } 4 0xC002 = true := by
  decide

/-- `PUSH HL` (R272): high byte to 0x0000 (ROM, ignored), low byte to 0xFFFF. -/
theorem test_K3 :
    let s := { cpu [0xE5] with h := 0xBE, l := 0xEF, sp := 0x0001 };
      stepsTo s (put { s with sp := 0xFFFF } 0xFFFF 0xEF) 4 0xC001 = true := by
  decide

/-- `PUSH DE` (R272): both bytes land in the OAM tail: ignored. -/
theorem test_K4 :
    let s := { cpu [0xD5] with d := 0xBE, e := 0xEF, sp := 0xFEA2 };
      stepsTo s { s with sp := 0xFEA0 } 4 0xC001 = true := by
  decide

/-- `POP BC` (R273): `sp` wraps; high byte from ROM 0x0000. -/
theorem test_K6 :
    let s := (put (put { cpu [0xC1] with sp := 0xFFFF } 0xFFFF 0xCD) 0x0000 0xAB);
      stepsTo s { s with b := 0xAB, c := 0xCD, sp := 0x0001 } 3 0xC001 = true := by
  decide

/-- `POP DE` (R273): I/O stub: both bytes read 0. -/
theorem test_K7 :
    let s := { cpu [0xD1] with sp := 0xFF00, d := 0x55, e := 0x55 };
      stepsTo s { s with d := 0x00, e := 0x00, sp := 0xFF02 } 3 0xC001 = true := by
  decide

/-- `POP AF` (R274): `f[3:0]` loaded, `H = 1` possible. -/
theorem test_K8 :
    let s := (put (put { cpu [0xF1] with sp := 0xC100 } 0xC100 0xFF) 0xC101 0x12);
      stepsTo s { s with a := 0x12, f := 0xFF, sp := 0xC102 } 3 0xC001 = true := by
  decide

/-- `JP NZ,0x8000` (R291): taken. -/
theorem test_J2 : let s := { cpu [0xC2, 0x00, 0x80] with f := 0x00 }; stepsTo s s 4 0x8000 = true := by decide

/-- `JP NZ,0x8000` (R291): not taken; both operand bytes consumed. -/
theorem test_J3 : let s := { cpu [0xC2, 0x00, 0x80] with f := 0x80 }; stepsTo s s 3 0xC003 = true := by decide

/-- `JP (HL)` (R292): no memory read at `hl`. -/
theorem test_J5 : let s := { cpu [0xE9] with h := 0xC2, l := 0x00 }; stepsTo s s 1 0xC200 = true := by decide

/-- `JR -2` (R293): the source's example S5, with the opcode supplied by a `BIOS` whose byte 0xFF is 0x18 and the operand by ROM. -/
theorem test_J7 : let s := (cpuAt true 0x00FF [0x18, 0xFE]); stepsTo s { s with inbios := false } 3 0x00FF = true := by decide

/-- `JR NZ,-5` (R294): taken. -/
theorem test_J10 : let s := { cpuAt false 0xC010 [0x20, 0xFB] with f := 0x00 }; stepsTo s s 3 0xC00D = true := by decide

/-- `JR NC,+2` (R294): not taken. -/
theorem test_J13 : let s := { cpu [0x30, 0x02] with f := 0x10 }; stepsTo s s 2 0xC002 = true := by decide

/-- `CALL 0xC200` (R295): return address 0xC003 pushed. -/
theorem test_J15 :
    let s := { cpu [0xCD, 0x00, 0xC2] with sp := 0xD000 };
      stepsTo s (put (put { s with sp := 0xCFFE } 0xCFFE 0x03) 0xCFFF 0xC0) 6 0xC200 = true := by
  decide

/-- `CALL C,0xC200` (R296): not taken: no push. -/
theorem test_J16 : let s := { cpu [0xDC, 0x00, 0xC2] with f := 0x00, sp := 0xD000 }; stepsTo s s 3 0xC003 = true := by decide

/-- `CALL Z,0xC200` (R296): taken. -/
theorem test_J17 :
    let s := { cpu [0xCC, 0x00, 0xC2] with f := 0x80, sp := 0xD000 };
      stepsTo s (put (put { s with sp := 0xCFFE } 0xCFFE 0x03) 0xCFFF 0xC0) 6 0xC200 = true := by
  decide

/-- `RET` (R297). -/
theorem test_J18 :
    let s := (put (put { cpu [0xC9] with sp := 0xCFFE } 0xCFFE 0x03) 0xCFFF 0xC0);
      stepsTo s { s with sp := 0xD000 } 4 0xC003 = true := by
  decide

/-- `RETI` (R298). -/
theorem test_J19 :
    let s := (put (put { cpu [0xD9] with sp := 0xCFFE, ime := false } 0xCFFE 0x03) 0xCFFF 0xC0);
      stepsTo s { s with sp := 0xD000, ime := true } 4 0xC003 = true := by
  decide

/-- `RET Z` (R299): taken. -/
theorem test_J20 :
    let s := (put (put { cpu [0xC8] with sp := 0xCFFE, f := 0x80 } 0xCFFE 0x03) 0xCFFF 0xC0);
      stepsTo s { s with sp := 0xD000 } 5 0xC003 = true := by
  decide

/-- `RET Z` (R299): not taken. -/
theorem test_J21 :
    let s := (put (put { cpu [0xC8] with sp := 0xCFFE, f := 0x00 } 0xCFFE 0x03) 0xCFFF 0xC0);
      stepsTo s s 2 0xC001 = true := by
  decide

/-- `RST 38` (R300). -/
theorem test_J23 :
    let s := { cpu [0xFF] with sp := 0xD000 };
      stepsTo s (put (put { s with sp := 0xCFFE } 0xCFFE 0x01) 0xCFFF 0xC0) 4 0x0038 = true := by
  decide

/-- `DJNZ -2` (R301): `b` becomes 0: not taken; `Z` not set. -/
theorem test_J26 :
    let s := { cpu [0x10, 0xFE] with b := 0x01, f := 0x00 };
      stepsTo s { s with b := 0x00 } 2 0xC002 = true := by
  decide

/-- `DJNZ +5` (R301): `b` wraps to 0xFF: taken. -/
theorem test_J27 : let s := { cpu [0x10, 0x05] with b := 0x00 }; stepsTo s { s with b := 0xFF } 3 0xC007 = true := by decide

/-- `JR +2` (R293): operand read at 0xFFFF; `pc` wraps to 0x0000 before the offset is added (10_state.md rule R29). -/
theorem test_J28 : let s := (cpuAt false 0xFFFE [0x18, 0x02]); stepsTo s s 3 0x0002 = true := by decide

/-- `HALT` (R311). -/
theorem test_M2 : let s := (cpu [0x76]); stepsTo s { s with halt := true } 1 0xC001 = true := by decide

/-- `(any)` (R351): `step()` while halted: no fetch. -/
theorem test_M3 :
    let s := { cpu [0x00] with halt := true };
      ends s { s with m := 1, t := 4, clockM := 1, clockT := 4 } .halted = true := by
  decide

/-- `DI` (R312). -/
theorem test_M4 : let s := { cpu [0xF3] with ime := true }; stepsTo s { s with ime := false } 1 0xC001 = true := by decide

/-- `EI` (R313). -/
theorem test_M5 : let s := { cpu [0xFB] with ime := false }; stepsTo s { s with ime := true } 1 0xC001 = true := by decide

/-- `(unassigned)` (R315): the source's example S8 at another address. -/
theorem test_M7 :
    let s := { cpu [0xED] with a := 0x11, f := 0xF0 };
      ends s { s with stop := true, fault := some ⟨false, 0xED, 0xC000⟩, pc := 0xC001 } .fault = true := by
  decide

/-- `(unassigned, CB)` (R316): `(HL)` not touched. -/
theorem test_M9 :
    let s := (put { cpu [0xCB, 0x36] with h := 0xC1, l := 0x00 } 0xC100 0x55);
      ends s { s with stop := true, fault := some ⟨true, 0x36, 0xC001⟩, pc := 0xC002 } .fault = true := by
  decide

/-- `(any)` (R333): `step()` after a fault: nothing changes. -/
theorem test_M10 :
    let s := { cpu [0x00] with stop := true, fault := some ⟨false, 0xED, 0xBFFF⟩ };
      ends s s .stopped = true := by
  decide

/-- `NOP` (R31): `BIOS[0xFF] = 0x00`: the fetch increment makes `pc = 0x0100` and clears the latch. -/
theorem test_M11 : let s := (cpuAt true 0x00FF [0x00]); stepsTo s { s with inbios := false } 1 0x0100 = true := by decide

/-- `JP 0x1234` (R31): opcode from `BIOS[0xFF]`; the fetch increment makes `pc = 0x0100`, the latch clears inside the instruction, both operand bytes come from ROM. -/
theorem test_M15 :
    let s := (cpuAt true 0x00FF [0xC3, 0x34, 0x12]);
      stepsTo s { s with inbios := false } 4 0x1234 = true := by
  decide
/-! ### Memory and the host's operations (V and O of 95_test_vectors.md) -/

/-- V1, V2: working RAM and its shadow. -/
theorem test_V1_V2 : let s := State.reset.memWrite 0xC010 0x5A
    s.wram = [(0x10, 0x5A)] ∧ s.memRead 0xE010 = 0x5A ∧ (State.reset.memWrite 0xE010 0xA5).memRead 0xC010 = 0xA5 := by decide

/-- V4 to V7: the last OAM byte, the OAM tail, the last I/O address, the first byte of zero-page RAM. -/
theorem test_V4_V7 : (State.reset.memWrite 0xFE9F 0x07).oam = [(0x9F, 0x07)] ∧ State.reset.memWrite 0xFEA0 0x07 = State.reset ∧
    State.reset.memWrite 0xFF7F 0x07 = State.reset ∧ (State.reset.memWrite 0xFF80 0x07).zram = [(0, 0x07)] := by decide

/-- V9 to V11: ROM, video RAM, external RAM. -/
theorem test_V9_V11 : State.reset.memWrite 0x7FFF 0x09 = State.reset ∧ (State.reset.memWrite 0x9FFF 0x22).vram = [(0x1FFF, 0x22)] ∧
    (State.reset.memWrite 0xA000 0x33).eram = [(0, 0x33)] := by decide

/-- V12, V13: the BIOS overlay. -/
theorem test_V12_V13 : let s : State := { State.reset with bios := [(0x50, 0xB0)], rom := [(0x50, 0x31), (0x100, 0x01)] }
    s.memRead 0x0050 = 0xB0 ∧ State.memRead { s with inbios := false } 0x0050 = 0x31 ∧ s.memRead 0x0100 = 0x01 := by decide

/-- V15 to V18: words across two regions and around the end of the address space. -/
theorem test_V15_V18 : (State.reset.memWriteWord 0xFFFF 0xABCD).zram = [(0x7F, 0xCD)] ∧
    (State.reset.memWriteWord 0xDFFF 0x1234).wram = [(0, 0x12), (0x1FFF, 0x34)] ∧
    (State.reset.memWriteWord 0xFDFF 0xBEEF).oam = [(0, 0xBE)] ∧ (State.reset.memWriteWord 0x7FFF 0xBEEF).vram = [(0, 0xBE)] := by
  decide

/-- A write of the unwritten value leaves no entry. -/
theorem test_canonical : (State.reset.memWrite 0xC010 0x5A).memWrite 0xC010 0 = State.reset := by decide

/-- O1: `reset()` after a fault. -/
theorem test_O1 : let s : State := { cpu [0xED] with a := 0x0A, clockM := 12, clockT := 48 }
    (after s).stop = true ∧ (after s).hostReset = { State.reset with wram := [(0, 0xED)] } := by decide

/-- O3, O6: `loadRom` pads and overwrites. -/
theorem test_O3_O6 : let s := State.reset.loadRom [0xDE, 0xAD, 0xBE, 0xEF]
    s.rom = [(0, 0xDE), (1, 0xAD), (2, 0xBE), (3, 0xEF)] ∧ s.memRead 0 = 0 ∧ (s.loadRom [0x01, 0x02]).rom = [(0, 0x01), (1, 0x02)] := by
  decide

/-- O8: the first step from power-on. -/
theorem test_O8 : stepsTo State.reset State.reset 1 0x0001 = true := by decide

/-! ### Witnesses: for every statement with hypotheses, a state and operands that meet them together -/

theorem witness_LoadPair_IncDecPair : RR.bc ≠ .sp ∧ RR.de ≠ .sp ∧ RR.hl ≠ .sp := ⟨nofun, nofun, nofun⟩

theorem witness_BitTest_ResSetRegister_ResSetMemory : 0 < 8 ∧ 7 < 8 := by decide

/-- 99 + 99 with the carry, whose low digits add to 19, is shut out; 95 + 99 + 1 meets all hypotheses. -/
theorem witness_DecimalAddition : let s : State := { State.reset with a := 0x95, f := 0x10 }
    9 ≤ 9 ∧ 5 ≤ 9 ∧ 5 + 9 + carry s < 16 ∧ s.a.toNat = 16 * 9 + 5 ∧ (0x99 : Byte).toNat = 16 * 9 + 9 := by decide

theorem witness_PopPair : QQ.bc ≠ .af ∧ QQ.de ≠ .af ∧ QQ.hl ≠ .af := by decide

/-- The ends of each stored range. -/
theorem witness_PushPopRoundTrip : ([0x8002, 0xFEA0, 0xFF82, 0x0000, 0xD000] : List Word).map
    (fun sp => (stored (plus sp 65535), stored (plus sp 65534))) = List.replicate 5 (true, true) := by decide

/-- Each condition holds in one state and fails in another: jumps, calls, returns. -/
theorem witness_conditions : let s : State := { State.reset with f := 0x90 }
    holds s .z ∧ holds s .c ∧ ¬ holds s .nz ∧ ¬ holds s .nc ∧ holds State.reset .nz ∧ holds State.reset .nc ∧
      ¬ holds State.reset .z ∧ ¬ holds State.reset .c :=
  ⟨rfl, rfl, nofun, nofun, rfl, rfl, nofun, nofun⟩

theorem witness_DecrementAndJump : State.reset.b.toNat ≠ 1 ∧ (State.b { State.reset with b := 1 }).toNat = 1 ∧
    (State.b { State.reset with b := 2 }).toNat ≠ 1 ∧ (State.b { State.reset with b := 0xFF }).toNat ≠ 1 := by decide

theorem witness_RestartVectors : 0 < 8 ∧ 7 < 8 := by decide

theorem witness_NopHaltDiEi : let s := after (cpu [0x76])
    s.stop = false ∧ s.halt = true := by decide

theorem witness_UnassignedSlots : (0xD3, Instr.unassignedD3) ∈ unassignedPrimary ∧ (0xFD, Instr.unassignedFD) ∈ unassignedPrimary ∧
    (0x26, Instr.unassignedCB26) ∈ unassignedSecondary ∧ (0x3E, Instr.unassignedCB3E) ∈ unassignedSecondary := by decide


/-- Running states of which the step completes, faults in the primary table, faults in the secondary one. -/
theorem witness_StepRuns_CostBounds : (running (cpu [0x3C]) ∧ (after (cpu [0x3C])).stop = false) ∧
    (running (cpu [0xED]) ∧ (after (cpu [0xED])).stop = true) ∧ (running (cpu [0xCB, 0x36]) ∧ (after (cpu [0xCB, 0x36])).stop = true) := by
  unfold running; decide

theorem witness_StepStoppedOrHalted : (after (cpu [0xED])).stop = true ∧
    (after (cpu [0x76])).stop = false ∧ (after (cpu [0x76])).halt = true := by decide

theorem witness_FaultEntry : running (cpu [0xFD]) ∧ byteAt 0 (cpu [0xFD]) = 0xFD ∧ (0xFD, Instr.unassignedFD) ∈ unassignedPrimary ∧
    running (cpu [0xCB, 0x3E]) ∧ byteAt 0 (cpu [0xCB, 0x3E]) = 0xCB ∧ byteAt 1 (cpu [0xCB, 0x3E]) = 0x3E ∧
    (0x3E, Instr.unassignedCB3E) ∈ unassignedSecondary := by
  unfold running; decide

/-- One instruction that faults, one that does not. -/
theorem witness_OnlyUnassignedSlotsFault : decode [0xCB, 0x26] = .ok (.unassignedCB26, []) ∧ (cpu []).stop = false ∧
    exec .unassignedCB26 (cpu []) = .next { cpu [] with fault := some ⟨true, 0x26, 0xBFFF⟩, stop := true } ∧
    decode [0xCB, 0x27] = .ok (.slaR .a, []) ∧ exec (.slaR .a) (cpu []) = .next ((cpu []).onReg .a (shift sla8) |>.cost 2) :=
  ⟨rfl, rfl, rfl, rfl, rfl⟩

theorem witness_PcFollowsInstruction : let s := cpu [0x21, 0x34, 0x12]
    running s ∧ decode (bytesAt s) = .ok (.ldRrNn .hl 0x1234, []) ∧ isTransfer (.ldRrNn .hl 0x1234) = false ∧
      step s = .next (after s) := ⟨⟨rfl, rfl⟩, rfl, rfl, rfl⟩

theorem witness_DecodeEncode : (Instr.bitR 7 .a).wf = true ∧ Instr.bitR 7 .a ≠ .cbPrefix ∧ (Instr.rst 0x38).wf = true ∧
    Instr.rst 0x38 ≠ .cbPrefix ∧ Instr.cbPrefix.wf = true := by decide

theorem witness_EncodeDecode_InstructionLength : decode [0x00, 0xFF] = .ok (.nop, [0xFF]) ∧ decode [0x18, 0xFE] = .ok (.jr 0xFE, []) ∧
    decode [0xC3, 0x50, 0x01, 0x00] = .ok (.jpNn 0x0150, [0x00]) ∧ decode [0xCB, 0xCB] = .ok (.setR 1 .e, []) := ⟨rfl, rfl, rfl, rfl⟩

/-- The ends of the shadowed range, and of each range whose writes are ignored. -/
theorem witness_ReadAfterWrite : (0xC000 ≤ (0xC000 : Word).toNat ∧ (0xC000 : Word).toNat ≤ 0xDDFF) ∧
    (0xC000 ≤ (0xDDFF : Word).toNat ∧ (0xDDFF : Word).toNat ≤ 0xDDFF) ∧
    ([0x0000, 0x7FFF, 0xFEA0, 0xFF7F] : List Word).map stored = List.replicate 4 false := by decide

theorem witness_WordAccess : ([0x8000, 0xDFFF, 0xFDFF, 0xFE9E, 0xFF80, 0xFFFE] : List Word).map
    (fun A => (stored A, stored (plus A 1))) = List.replicate 6 (true, true) := by decide

theorem witness_PowerOnState : Region.rom ≠ .bios ∧ Region.vram ≠ .bios ∧ Region.eram ≠ .bios ∧ Region.wram ≠ .bios ∧
    Region.oam ≠ .bios ∧ Region.zram ≠ .bios := by decide

/-- The latch clear at address 0, and the latch set from 0x0100 on. -/
theorem witness_LoadRom :
    ((0x0000 : Word).toNat < (List.replicate 0x101 (0x3C : Byte)).length ∧ (0x0000 : Word).toNat < 32768 ∧ (cpu []).inbios = false) ∧
      (0x0100 : Word).toNat < (List.replicate 0x101 (0x3C : Byte)).length ∧ (0x0100 : Word).toNat < 32768 ∧
      0x0100 ≤ (0x0100 : Word).toNat := by
  rw [List.length_replicate]
  decide

/-- A state with the invariant that is not the reset state: after a fault, with something in memory. -/
theorem witness_StepKeepsInv : (after (cpu [0xED])).Inv := by
  constructor <;> decide

/-- A step that ends at 0x0100, and steps of a machine with the latch clear, halted, stopped. -/
theorem witness_LatchesNeverRevert : (let s := cpuAt true 0x00FF [0x00]; running s ∧ (after s).pc = 0x0100 ∧ step s = .next (after s)) ∧
    (cpu [0x00]).inbios = false ∧ (after (cpu [0x76])).halt = true ∧ (after (cpu [0xED])).stop = true :=
  ⟨⟨⟨rfl, rfl⟩, rfl, rfl⟩, rfl, rfl, rfl⟩

/-- `H` set before and after, through an instruction that keeps it. -/
theorem witness_HalfCarryAndStorageBits : let s : State := { State.reset with f := 0xFF }
    (Instr.incR .a).wf = true ∧ Instr.incR .a ≠ .popAF ∧ exec (.incR .a) s = .next ((s.onReg .a inc8).cost 1) ∧
      ((s.onReg .a inc8).cost 1).f.getLsbD 5 = true := by
  refine ⟨rfl, nofun, rfl, ?_⟩
  decide

theorem witness_WritersOfImeAndHalt : exec .reti State.reset = .next { State.reset with sp := 2, ime := true, m := 4, t := 16 } ∧
    exec .halt State.reset = .next { State.reset with halt := true, m := 1, t := 4 } := ⟨rfl, rfl⟩

/-- `EI` after which the two states agree, `NOP` after which they differ. -/
theorem witness_ImeIsNeverRead : step (cpu [0xFB]) = .next (after (cpu [0xFB])) ∧ step (cpu [0x00]) = .next (after (cpu [0x00])) := ⟨rfl, rfl⟩

end Sys2Proof.Tests
end

section
/-! SUPPORT. What an instruction leaves alone of `ime`, `halt`, `f` and `pc` (10_state.md R26, R28, R29, R32, R33), said once for
all of them. -/

namespace Sys2Proof.Machine

open Sys2Proof.Claim

/-! ### `H` and the storage bits of `f` (R26, R28) -/

/-- From `f` to `g`, `H` is not newly set and bits 3:0 are the same. -/
def FlagsKept (f g : Byte) : Prop :=
  (g.getLsbD 5 = true → f.getLsbD 5 = true) ∧ ∀ k, k < 4 → g.getLsbD k = f.getLsbD k

namespace FlagsKept

variable {f g : Byte}

theorem refl (f : Byte) : FlagsKept f f := ⟨id, fun _ _ => rfl⟩

theorem trans {k : Byte} (h : FlagsKept f g) (h' : FlagsKept g k) : FlagsKept f k :=
  ⟨h.1 ∘ h'.1, fun i hi => (h'.2 i hi).trans (h.2 i hi)⟩

/-- One of the bits 7:4 is written, bit 5 with 0 only. -/
theorem write_bit {g' : Byte} {b : Nat} {x : Bool} (h : FlagsKept f g)
    (hw : ∀ k, g'.getLsbD k = if k = b then x else g.getLsbD k) (hb : 4 ≤ b) (hx : b = 5 → x = false) :
    FlagsKept f g' := by
  refine ⟨fun hg => h.1 ?_, fun k hk => by rw [hw, if_neg (by omega), h.2 k hk]⟩
  rw [hw] at hg
  split at hg
  case isTrue h5 => rw [hx h5.symm] at hg; cases hg
  case isFalse => exact hg

theorem setZ (h : FlagsKept f g) (x : Bool) : FlagsKept f (setZ g x) :=
  h.write_bit (getLsbD_setZ g x) (by decide) nofun

theorem setN (h : FlagsKept f g) (x : Bool) : FlagsKept f (setN g x) :=
  h.write_bit (getLsbD_setN g x) (by decide) nofun

theorem setC (h : FlagsKept f g) (x : Bool) : FlagsKept f (setC g x) :=
  h.write_bit (getLsbD_setC g x) (by decide) nofun

theorem clearH (h : FlagsKept f g) : FlagsKept f (setH g false) :=
  h.write_bit (getLsbD_setH g false) (by decide) fun _ => rfl

/-- All four flags written, `H` with 0. -/
theorem setZNHC (f : Byte) (z n c : Bool) : FlagsKept f (setZNHC f z n false c) :=
  (((refl f).setZ z).setN n).clearH.setC c

/-! The new `f` of each datapath function: those that write `H` write 0 to it (R28). -/

theorem aluAdd (a v f : Byte) : FlagsKept f (aluAdd a v f).2 := setZNHC f _ _ _
theorem aluAdc (a v f : Byte) : FlagsKept f (aluAdc a v f).2 := setZNHC f _ _ _
theorem aluSub (a v f : Byte) : FlagsKept f (aluSub a v f).2 := setZNHC f _ _ _
theorem aluSbc (a v f : Byte) : FlagsKept f (aluSbc a v f).2 := setZNHC f _ _ _
theorem aluCp (a v f : Byte) : FlagsKept f (aluCp a v f).2 := setZNHC f _ _ _
theorem logicFlags (f r : Byte) : FlagsKept f (logicFlags f r) := setZNHC f _ _ _
theorem shift (op : Byte → Bool → Byte × Bool) (v f : Byte) : FlagsKept f (shift op v f).2 := setZNHC f _ _ _
theorem addSP (sp : Word) (e f : Byte) : FlagsKept f (addSP sp e f).2 := setZNHC f _ _ _
theorem inc8 (v f : Byte) : FlagsKept f (inc8 v f).2 := ((refl f).setZ _).setN _
theorem dec8 (v f : Byte) : FlagsKept f (dec8 v f).2 := ((refl f).setZ _).setN _
theorem daa8 (a f : Byte) : FlagsKept f (daa8 a f).2 := ((refl f).setZ _).clearH.setC _
theorem cpl8 (a f : Byte) : FlagsKept f (cpl8 a f).2 := (refl f).setN _
theorem scfFlags (f : Byte) : FlagsKept f (scfFlags f) := ((refl f).setN _).clearH.setC _
theorem ccfFlags (f : Byte) : FlagsKept f (ccfFlags f) := ((refl f).setN _).clearH.setC _
theorem bitFlags (b : Nat) (v f : Byte) : FlagsKept f (bitFlags b v f) := (((refl f).setZ _).setN _).clearH
theorem rotateAFlags (f : Byte) (r : Byte × Bool) : FlagsKept f (rotateAFlags f r) := (refl f).setC _
theorem add16 (hl v : Word) (f : Byte) : FlagsKept f (add16 hl v f).2 := (refl f).setC _

end FlagsKept

/-! ### What an instruction leaves alone of `ime`, `halt`, `f` and `pc` -/

@[simp] theorem State.branch_ime (s : State) (e : Byte) : (s.branch e).ime = s.ime := rfl
@[simp] theorem State.branch_halt (s : State) (e : Byte) : (s.branch e).halt = s.halt := rfl
@[simp] theorem State.branch_f (s : State) (e : Byte) : (s.branch e).f = s.f := rfl
@[simp] theorem State.memWriteWord_f (s : State) (A v : Word) : (s.memWriteWord A v).f = s.f := by
  simp [State.memWriteWord]
theorem State.setQQ_f (s : State) {q : QQ} (v : Word) (hq : q ≠ .af) : (s.setQQ q v).f = s.f := by
  cases q with
  | bc | de | hl => rfl
  | af => exact absurd rfl hq

/-- `ime` and `halt` as they were, and of `f` what `FlagsKept` says. -/
structure State.ModesKept (s t : State) : Prop where
  ime : t.ime = s.ime
  halt : t.halt = s.halt
  flags : FlagsKept s.f t.f

/-- `pc` as it was, too. -/
structure State.PcModesKept (s t : State) : Prop extends s.ModesKept t where
  pc : t.pc = s.pc

section
variable {s t : State}

theorem State.ModesKept.trans {u : State} (h : s.ModesKept t) (g : t.ModesKept u) : s.ModesKept u :=
  ⟨g.ime.trans h.ime, g.halt.trans h.halt, h.flags.trans g.flags⟩

/-- Nothing of `f` is written; the fields are compared by the simp lemmas of the shared operations. -/
theorem State.ModesKept.of_f_eq (f : t.f = s.f := by simp) (ime : t.ime = s.ime := by simp)
    (halt : t.halt = s.halt := by simp) : s.ModesKept t := ⟨ime, halt, f ▸ .refl _⟩

theorem State.PcModesKept.of_flags (flags : FlagsKept s.f t.f) (ime : t.ime = s.ime := by simp)
    (halt : t.halt = s.halt := by simp) (pc : t.pc = s.pc := by simp) : s.PcModesKept t := ⟨⟨ime, halt, flags⟩, pc⟩

theorem State.PcModesKept.of_f_eq (f : t.f = s.f := by simp) (ime : t.ime = s.ime := by simp)
    (halt : t.halt = s.halt := by simp) (pc : t.pc = s.pc := by simp) : s.PcModesKept t := ⟨.of_f_eq f ime halt, pc⟩

end

/-- The result is a next state with the property. -/
def EndsIn (P : State → Prop) (r : Result) : Prop := ∃ t, r = .next t ∧ P t

theorem EndsIn.of_eq {P : State → Prop} {r : Result} {t : State} (h : EndsIn P r) (e : r = .next t) : P t := by
  obtain ⟨u, hu, hP⟩ := h
  rw [hu] at e
  cases e
  exact hP

theorem EndsIn.imp {P Q : State → Prop} {r : Result} (h : EndsIn P r) (hPQ : ∀ t, P t → Q t) : EndsIn Q r :=
  let ⟨t, e, hP⟩ := h
  ⟨t, e, hPQ t hP⟩

theorem EndsIn.ite {P : State → Prop} {c : Prop} [Decidable c] {x y : Result} (hx : EndsIn P x) (hy : EndsIn P y) :
    EndsIn P (if c then x else y) := by
  split
  · exact hx
  · exact hy

/-- The instructions that write `ime`, `halt` or the whole of `f`; `POP rr` with `af` is the term no encoding gives. -/
def modeWriters : List Instr := [.popAF, .popRr .af, .reti, .di, .ei, .halt]

theorem mem_modeWriters (i : Instr) :
    i ∈ modeWriters ↔ i = .popAF ∨ i = .popRr .af ∨ i = .reti ∨ i = .di ∨ i = .ei ∨ i = .halt := by
  simp [modeWriters]

open State.PcModesKept

/-- Every instruction that is no control transfer, no mode writer and not `0xCB`. -/
theorem exec_pcModesKept {i : Instr} (s : State) (ht : isTransfer i = false) (hp : i ≠ .cbPrefix)
    (hm : i ∉ modeWriters) : EndsIn s.PcModesKept (exec i s) := by
  cases i with
  | di | ei | reti | halt | popAF => simp [mem_modeWriters] at hm
  | cbPrefix => exact absurd rfl hp
  | jpNn _ | jpCcNn _ _ | jpHL | jr _ | jrCc _ _ | djnz _ | callNn _ | callCcNn _ _ | ret | retCc _ | rst _ => cases ht
  | popRr q =>
    have hq : q ≠ .af := by rintro rfl; simp [mem_modeWriters] at hm
    exact ⟨_, rfl, of_f_eq (f := by simp [State.setQQ_f _ _ hq])⟩
  | addAR _ | addAHL | addAN _ => exact ⟨_, rfl, of_flags (.aluAdd _ _ _)⟩
  | adcAR _ | adcAHL | adcAN _ => exact ⟨_, rfl, of_flags (.aluAdc _ _ _)⟩
  | subR _ | subHL | subN _ => exact ⟨_, rfl, of_flags (.aluSub _ _ _)⟩
  | sbcAR _ | sbcAHL | sbcAN _ => exact ⟨_, rfl, of_flags (.aluSbc _ _ _)⟩
  | cpR _ | cpHL | cpN _ => exact ⟨_, rfl, of_flags (.aluCp _ _ _)⟩
  | andR _ | andHL | andN _ | xorR _ | xorHL | xorN _ | orR _ | orHL | orN _ =>
    exact ⟨_, rfl, of_flags (.logicFlags _ _)⟩
  | incR _ | incHL => exact ⟨_, rfl, of_flags (.inc8 _ _)⟩
  | decR _ | decHL => exact ⟨_, rfl, of_flags (.dec8 _ _)⟩
  | rlcR _ | rrcR _ | rlR _ | rrR _ | slaR _ | sraR _ | sllR _ | srlR _ | rlcHL | rrcHL | rlHL | rrHL =>
    exact ⟨_, rfl, of_flags (.shift _ _ _)⟩
  | rlca | rla | rrca | rra => exact ⟨_, rfl, of_flags (.rotateAFlags _ _)⟩
  | daa => exact ⟨_, rfl, of_flags (.daa8 _ _)⟩
  | cpl => exact ⟨_, rfl, of_flags (.cpl8 s.a _)⟩
  | scf => exact ⟨_, rfl, of_flags (.scfFlags _)⟩
  | ccf => exact ⟨_, rfl, of_flags (.ccfFlags _)⟩
  | bitR _ _ | bitHL _ => exact ⟨_, rfl, of_flags (.bitFlags _ _ _)⟩
  | addHLRr _ => exact ⟨_, rfl, of_flags (.add16 _ _ _)⟩
  | addSPE _ | ldHLSPE _ => exact ⟨_, rfl, of_flags (.addSP _ _ _)⟩
  | nop | ldRR _ _ | ldRHL _ | ldRN _ _ | ldABC | ldADE | ldhAN _ | ldAC | ldANn _ | ldHLR _ | ldHLN _ | ldBCA | ldDEA
  | ldhNA _ | ldCA | ldNnA _ | ldiHLA | lddHLA | ldiAHL | lddAHL | ldRrNn _ _ | incRr _ | decRr _ | ldNnSP _ | ldSPHL
  | pushQq _ | resR _ _ | setR _ _ | resHL _ | setHL _ => exact ⟨_, rfl, of_f_eq⟩
  | unassignedD3 | unassignedDB | unassignedDD | unassignedE3 | unassignedE4 | unassignedEB | unassignedEC | unassignedED
  | unassignedF4 | unassignedFC | unassignedFD | unassignedCB26 | unassignedCB2E | unassignedCB36 | unassignedCB3E =>
    exact ⟨_, rfl, of_f_eq⟩

/-- Every control transfer but `RETI`. -/
theorem exec_transfer_modesKept {i : Instr} (s : State) (ht : isTransfer i = true) (hr : i ≠ .reti) :
    EndsIn s.ModesKept (exec i s) := by
  cases i with
  | jpNn _ | jpHL | jr _ | callNn _ | rst _ | ret => exact ⟨_, rfl, .of_f_eq⟩
  | jpCcNn _ _ | jrCc _ _ | callCcNn _ _ | retCc _ | djnz _ => exact .ite ⟨_, rfl, .of_f_eq⟩ ⟨_, rfl, .of_f_eq⟩
  | reti => exact absurd rfl hr
  | _ => cases ht

/-- A row of the secondary table is run as the instruction it stands for (R314). -/
theorem execSecondary_eq (row : Secondary) (s : State) : execSecondary row s = exec row.toInstr s := by
  cases row <;> rfl

/-! No row of the secondary table stands for a control transfer, for `0xCB` or for a mode writer. -/

theorem isTransfer_toInstr (row : Secondary) : isTransfer row.toInstr = false := by
  cases row <;> rfl

theorem toInstr_ne_cbPrefix (row : Secondary) : row.toInstr ≠ .cbPrefix := by
  cases row <;> exact nofun

theorem toInstr_not_mem_modeWriters (row : Secondary) : row.toInstr ∉ modeWriters := by
  rw [mem_modeWriters]
  cases row <;> exact nofun

/-- Every instruction but the mode writers, `0xCB` included. -/
theorem exec_modesKept {i : Instr} (s : State) (hm : i ∉ modeWriters) : EndsIn s.ModesKept (exec i s) := by
  by_cases hp : i = .cbPrefix
  · subst hp
    have h := exec_pcModesKept s.fetch8.2 (isTransfer_toInstr (secondaryRow s.fetch8.1)) (toInstr_ne_cbPrefix _)
      (toInstr_not_mem_modeWriters _)
    rw [← execSecondary_eq] at h
    exact h.imp fun t ht => State.ModesKept.trans .of_f_eq ht.toModesKept
  · cases ht : isTransfer i with
    | false => exact (exec_pcModesKept s ht hp hm).imp fun _ h => h.toModesKept
    | true => exact exec_transfer_modesKept s ht (by rintro rfl; simp [mem_modeWriters] at hm)

/-- Every instruction that is no control transfer and not `0xCB`, whose handler moves `pc` past the secondary byte. -/
theorem exec_pc {i : Instr} {s t : State} (ht : isTransfer i = false) (hp : i ≠ .cbPrefix) (h : exec i s = .next t) :
    t.pc = s.pc := by
  by_cases hm : i ∈ modeWriters
  · rw [mem_modeWriters] at hm
    obtain rfl | rfl | rfl | rfl | rfl | rfl := hm
    case inr.inr.inl => cases ht
    all_goals
      cases h
      rfl
  · exact ((exec_pcModesKept s ht hp hm).of_eq h).pc

end Sys2Proof.Machine
end

section
/-! SUPPORT. A step as the instruction the bytes at `pc` decode to, run with `pc` past its bytes (30_encoding.md R92;
60_exceptions.md R350). -/

namespace Sys2Proof.Machine

open Sys2Proof.Claim

theorem plus_one (v : Word) : plus v 1 = v + 1 := by
  apply BitVec.eq_of_toNat_eq
  simp [plus]

theorem plus_plus (v : Word) (j k : Nat) : plus (plus v j) k = plus v (j + k) := by
  apply BitVec.eq_of_toNat_eq
  simp [plus, Nat.add_assoc]

/-- Moving past one byte is the write of `pc` a fetch does. -/
theorem past_succ (k : Nat) (s : State) : past (k + 1) s = past k (s.writePc (s.pc + 1)) := by
  have hlatch : (s.pc + 1 != Config.latchAddress) = decide ((plus s.pc 1).toNat ≠ 0x0100) := by
    rw [plus_one, Bool.eq_iff_iff, bne_iff_ne, decide_eq_true_iff, ne_eq, ← BitVec.toNat_inj]
    rfl
  rw [past, State.writePc, hlatch, plus_one]

theorem past_pc (k : Nat) (s : State) : (past k s).pc = plus s.pc k := by
  induction k generalizing s with
  | zero => simp [past, plus]
  | succ k ih => rw [past_succ, ih, State.writePc_pc, ← plus_one, plus_plus, Nat.add_comm]

/-- The three bytes are those the fetches read, each from the state the one before it left. -/
theorem bytesAt_eq (s : State) :
    bytesAt s = [s.fetch8.1, s.fetch8.2.fetch8.1, s.fetch8.2.fetch8.2.fetch8.1] := by
  simp only [bytesAt, byteAt, past_succ]
  rfl

/-- No byte string decodes to `0xCB` alone. -/
theorem decode_ne_cbPrefix {bytes rest : List Byte} {i : Instr} (h : decode bytes = .ok (i, rest)) : i ≠ .cbPrefix := by
  unfold decode at h
  split at h
  case h_1 sub _ _ => cases h; exact toInstr_ne_cbPrefix (secondaryRow sub)
  case h_2 => cases h
  case h_3 hsub hnil =>
    rintro rfl
    cases rest with
    | nil => exact hnil h
    | cons sub tail => exact hsub sub tail h

/-- What a step runs is the instruction the bytes at `pc` decode to, from the state with `pc` past its bytes; for a row of the
secondary table the handler of `0xCB` gets there (R314, R350). -/
theorem exec_fetchInstr {s : State} {i : Instr} {rest : List Byte} (h : decode (bytesAt s) = .ok (i, rest)) :
    exec s.fetchInstr.1 s.fetchInstr.2 = exec i (past (3 - rest.length) s) := by
  rw [bytesAt_eq, decode_cons] at h
  unfold State.fetchInstr
  cases hrow : primaryRow s.fetch8.1
  all_goals
    simp only [hrow] at h ⊢
    cases h
    simp only [List.length_cons, List.length_nil, Nat.reduceAdd, Nat.reduceSub, past_succ]
  case cb => exact execSecondary_eq _ _
  all_goals rfl

/-- A step of a running machine, given what its instruction answers (R350). -/
theorem step_of_running {s u : State} (hrun : running s) (hu : exec s.fetchInstr.1 s.fetchInstr.2 = .next u) :
    step s = .next (if u.stop then u else u.account) := by
  simp only [step, hrun.1, hrun.2, hu, Bool.false_eq_true, if_false]
  split <;> rfl

end Sys2Proof.Machine
end

section
/-! The claims about the state (10_state.md): the invariant, the instruction-following address, what a step never undoes, and
who writes `H`, the storage bits, `ime` and `halt`. -/

namespace Sys2Proof.Machine

open Sys2Proof.Claim

/-! ### The invariant (R40) -/

/-- An instruction's cost over a state the instruction kept, taken into the Clock Accumulator. -/
theorem State.Inv.account_cost {s u : State} (h : s.Inv) (k : s.Keeps u) (hs : s.stop = false) (n : Nat) :
    ((u.cost n).account).Inv where
  memory := k.memWf h.memory
  cost := rfl
  clock := by
    have hc := h.clock
    simp only [State.account_clockT, State.account_clockM, State.cost_clockT, State.cost_clockM, State.cost_t,
      State.cost_m, k.clockM, k.clockT]
    omega
  faultIffStop := by simp [k.fault, k.stop, h.faultIffStop]
  notBoth := by simp [k.stop, hs]

/-- The fault over a running state: `stop` and the record are written together, and the counters stay as they were. -/
theorem State.Inv.raiseFault {s u : State} (h : s.Inv) (k : s.Keeps u) (hh : u.halt = false) (hm : u.m = s.m)
    (ht : u.t = s.t) (p : Bool) (o : Byte) (x : Word) : (u.raiseFault p o x).Inv where
  memory := k.memWf h.memory
  cost := by simp [hm, ht, h.cost]
  clock := by simp [k.clockM, k.clockT, h.clock]
  faultIffStop := rfl
  notBoth := by simp [hh]

/-- Settles O55, by the four cases of a step: nothing, an idle cycle, an instruction with its cost, the fault. -/
theorem stepKeepsInv : Obligations.StepKeepsInv := by
  intro s h
  rcases step_cases s with ⟨_, e⟩ | ⟨hs, _, e⟩ | ⟨u, n, hs, _, k, _, _, _, e⟩ | ⟨u, p, o, _, hh, k, eh, em, et, e⟩
  · exact ⟨s, e, h⟩
  · exact ⟨s.idle, e, h.account_cost (.refl s) hs 1⟩
  · exact ⟨_, e, h.account_cost (s.fetchInstr_keeps.trans k) hs n⟩
  · exact ⟨_, e, h.raiseFault (s.fetchInstr_keeps.trans k) (eh.trans hh) em et p o _⟩

/-! ### The instruction-following address (R29) -/

/-- Settles O43: the step runs the decoded instruction with `pc` past its bytes, and that instruction leaves `pc` there. -/
theorem pcFollowsInstruction : Obligations.PcFollowsInstruction := by
  intro s t i rest hrun hdec ht hstep
  obtain ⟨u, hu, -⟩ := exec_answers i (past (3 - rest.length) s)
  have hpc : u.pc = plus s.pc (3 - rest.length) := by
    rw [exec_pc ht (decode_ne_cbPrefix hdec) hu, past_pc]
  rw [step_of_running hrun ((exec_fetchInstr hdec).trans hu)] at hstep
  cases hstep
  split
  · exact hpc
  · exact hpc

/-! ### What a step never undoes (R30, R31, R33, R34, R63) -/

theorem State.Keeps.inbios_clear {s t : State} (k : s.Keeps t) (h : s.inbios = false) : t.inbios = false :=
  Bool.eq_false_iff.mpr (mt k.inbios (Bool.eq_false_iff.mp h))

/-- Settles O56: by the cases of a step. A fetch leaves the latch clear at 0x0100, and what follows it `Keeps` that. -/
theorem latchesNeverRevert : Obligations.LatchesNeverRevert := by
  intro s t h
  rcases step_cases s with ⟨hs, e⟩ | ⟨_, hh, e⟩ | ⟨u, n, hs, _, k, _, _, _, e⟩ | ⟨u, p, o, _, _, k, _, _, _, e⟩
  all_goals
    rw [e] at h
    cases h
  · exact ⟨id, id, id, rfl, rfl, fun ⟨hns, _⟩ => by simp [hns] at hs⟩
  · exact ⟨id, id, id, rfl, rfl, fun ⟨_, hnh⟩ => by simp [hnh] at hh⟩
  · have ks := s.fetchInstr_keeps.trans k
    exact ⟨ks.inbios_clear, ks.halt, fun h => by simp [h] at hs, ks.bios, ks.rom, fun _ => k.latch s.fetchInstr_latch⟩
  · have ks := s.fetchInstr_keeps.trans k
    exact ⟨ks.inbios_clear, ks.halt, fun _ => rfl, ks.bios, ks.rom, fun _ => k.latch s.fetchInstr_latch⟩

/-! ### Who writes `f`, `ime` and `halt` (R26, R28, R32, R33) -/

/-- Settles O57: the mode writers but `POP AF` leave `f` alone, every other instruction writes 0 to `H` or nothing. -/
theorem halfCarryAndStorageBits : Obligations.HalfCarryAndStorageBits := by
  intro i s t hwf hpop h
  by_cases hm : i ∈ modeWriters
  · rw [mem_modeWriters] at hm
    obtain rfl | rfl | rfl | rfl | rfl | rfl := hm
    case inl => exact absurd rfl hpop
    case inr.inl => cases hwf
    all_goals
      cases h
      exact FlagsKept.refl s.f
  · exact ((exec_modesKept s hm).of_eq h).flags

/-- Settles O58: the mode writers one by one, every other instruction by `exec_modesKept`. -/
theorem writersOfImeAndHalt : Obligations.WritersOfImeAndHalt := by
  intro i s t h
  by_cases hm : i ∈ modeWriters
  · rw [mem_modeWriters] at hm
    obtain rfl | rfl | rfl | rfl | rfl | rfl := hm
    all_goals
      cases h
      exact ⟨rfl, rfl⟩
  · obtain ⟨hime, hhalt, -⟩ := (exec_modesKept s hm).of_eq h
    simp only [mem_modeWriters, not_or] at hm
    obtain ⟨-, -, hreti, hdi, hei, hh⟩ := hm
    simp [hime, hhalt, hdi, hei, hreti, hh]

/-! ### Power-on (R40) -/

/-- Settles O54: no array holds an entry, and every number and flag of the invariant is 0. -/
theorem invAtReset : Obligations.InvAtReset :=
  ⟨by decide, rfl, rfl, rfl, by decide⟩

end Sys2Proof.Machine
end

section
/-! SUPPORT. The decoder read by nibbles, as R52 and R53 write it. -/

namespace Sys2Proof.Machine

open Sys2Proof.Claim

/-- What an address selects, by its nibbles: the case analysis R52 and R53 share. -/
def locateByNibble (inbios : Bool) (A : Word) : Loc :=
  let n := A.toNat
  let top := n / 4096
  if top = 0 then (if inbios = true ∧ n < 0x0100 then .cell .bios n else .cell .rom n)
  else if top ≤ 0x7 then .cell .rom n
  else if top ≤ 0x9 then .cell .vram (n % 0x2000)
  else if top ≤ 0xB then .cell .eram (n % 0x2000)
  else if top ≤ 0xE then .cell .wram (n % 0x2000)
  else if n / 256 % 16 ≤ 0xD then .cell .wram (n % 0x2000)
  else if n / 256 % 16 = 0xE then (if n % 256 < 0xA0 then .cell .oam (n % 256) else .absent)
  else if n / 128 % 2 = 1 then .cell .zram (n % 128) else .absent

/-- The ranges of R51 are the nibble cases of R52: in each case the nibbles decide the range tests of `locate`. -/
theorem locate_eq_locateByNibble (x : Bool) (A : Word) : locate x A = locateByNibble x A := by
  have hA := A.isLt
  unfold locate locateByNibble
  generalize A.toNat = n at hA ⊢
  dsimp only
  by_cases h0 : n / 4096 = 0
  · rw [if_pos h0, if_pos (by omega)]
    simp only [Bool.and_eq_true, decide_eq_true_eq]
  rw [if_neg h0]
  by_cases h7 : n / 4096 ≤ 0x7
  · have hover : ¬ n < 0x0100 := by omega
    rw [if_pos h7, if_pos (by omega)]
    simp only [hover, decide_false, Bool.and_false, Bool.false_eq_true, if_false]
  rw [if_neg h7, if_neg (by omega)]
  by_cases h9 : n / 4096 ≤ 0x9
  · rw [if_pos h9, if_pos (by omega)]
  rw [if_neg h9, if_neg (by omega)]
  by_cases hB : n / 4096 ≤ 0xB
  · rw [if_pos hB, if_pos (by omega)]
  rw [if_neg hB, if_neg (by omega)]
  by_cases hE : n / 4096 ≤ 0xE
  · rw [if_pos hE, if_pos (by omega)]
  rw [if_neg hE]
  by_cases hD : n / 256 % 16 ≤ 0xD
  · rw [if_pos hD, if_pos (by omega)]
  rw [if_neg hD, if_neg (by omega)]
  by_cases hE' : n / 256 % 16 = 0xE
  · rw [if_pos hE']
    by_cases hoam : n % 256 < 0xA0
    · rw [if_pos hoam, if_pos (by omega)]
    · rw [if_neg hoam, if_neg (by omega), if_pos (by omega)]
  rw [if_neg hE', if_neg (by omega)]
  by_cases hz : n / 128 % 2 = 1
  · rw [if_pos hz, if_neg (by omega)]
  · rw [if_neg hz, if_pos (by omega)]

/-- The byte read where the decoder points. -/
def State.readLoc (s : State) : Loc → Byte
  | .cell r i => (s.array r).get i
  | .absent => 0

/-- The state after a byte write where the decoder points. -/
def State.writeLoc (s : State) (v : Byte) : Loc → State
  | .cell r i => if r.writable then s.poke (.cell r i) v else s
  | .absent => s

theorem State.memRead_eq_readLoc (s : State) (A : Word) : s.memRead A = s.readLoc (locate s.inbios A) := rfl

theorem State.memWrite_eq_writeLoc (s : State) (A : Word) (v : Byte) :
    s.memWrite A v = s.writeLoc v (locate s.inbios A) := rfl

/-- A byte read is R52's case analysis. -/
theorem State.memRead_eq_readByNibble (s : State) (A : Word) : s.memRead A = readByNibble s A := by
  rw [State.memRead_eq_readLoc, locate_eq_locateByNibble]
  simp only [locateByNibble, apply_ite s.readLoc]
  rfl

/-- A byte write is R53's case analysis. -/
theorem State.memWrite_eq_writeByNibble (s : State) (A : Word) (v : Byte) : s.memWrite A v = writeByNibble s A v := by
  by_cases h : A.toNat / 4096 ≤ 0x7
  · rw [State.memWrite_of_lt s v (by omega), writeByNibble, if_pos h]
  · have h0 : A.toNat / 4096 ≠ 0 := by omega
    rw [State.memWrite_eq_writeLoc, locate_eq_locateByNibble]
    simp only [locateByNibble, writeByNibble, if_neg h0, if_neg h, apply_ite (s.writeLoc v)]
    rfl

/-- Settles O48: the decoder by nibbles, and read after write in one array (`Memory.get_set`). -/
theorem memoryDecoder : Obligations.MemoryDecoder :=
  ⟨State.memRead_eq_readByNibble, State.memWrite_eq_writeByNibble, Memory.get_set⟩

end Sys2Proof.Machine
end

section
/-! Read after write at every address (20_memory.md R53, R58, R60, R61, R63, R70). -/

namespace Sys2Proof.Machine

open Sys2Proof.Claim

/-! ### The stored addresses and the cells they select -/

/-- Whether a byte written there is kept (R60, R61, R63). -/
def Loc.writable : Loc → Bool
  | .cell r _ => r.writable
  | .absent => false

theorem Loc.writable_iff (loc : Loc) : loc.writable = true ↔ ∃ r i, loc = .cell r i ∧ r.writable = true := by
  cases loc with
  | cell r i => simp [Loc.writable]
  | absent => simp [Loc.writable]

theorem stored_iff (A : Word) : stored A = true ↔ 0x8000 ≤ A.toNat ∧ ¬ (0xFEA0 ≤ A.toNat ∧ A.toNat ≤ 0xFF7F) := by
  simp only [stored, Bool.and_eq_true, Bool.not_eq_true', decide_eq_true_eq, ← Bool.not_eq_true]

/-- The addresses whose writes are stored are those the decoder sends to an array the program can write. -/
theorem locate_writable (x : Bool) (A : Word) : (locate x A).writable = stored A := by
  rw [Bool.eq_iff_iff, stored_iff]
  rcases locate_ranges x A with
    ⟨_, _, g⟩ | ⟨_, _, g⟩ | ⟨_, _, g⟩ | ⟨_, _, g⟩ | ⟨_, _, g⟩ | ⟨_, _, g⟩ | ⟨_, _, g⟩ | ⟨_, _, g⟩ | ⟨_, g⟩
  all_goals
    simp only [g, Loc.writable, Region.writable, Bool.false_eq_true, false_iff, true_iff]
    omega

/-- The lowest address of an array's range (R51). -/
def Region.base : Region → Nat
  | .bios => 0
  | .rom => 0
  | .vram => 0x8000
  | .eram => 0xA000
  | .wram => 0xC000
  | .oam => 0xFE00
  | .zram => 0xFF80

theorem cell_of_locate {x : Bool} {A : Word} {r : Region} {i : Nat} (h : locate x A = .cell r i) :
    cell A = r.base + i := by
  rw [cell]
  rcases locate_ranges x A with
    ⟨_, _, g⟩ | ⟨_, _, g⟩ | ⟨_, _, g⟩ | ⟨_, _, g⟩ | ⟨_, _, g⟩ | ⟨_, _, g⟩ | ⟨_, _, g⟩ | ⟨_, _, g⟩ | ⟨_, g⟩
  all_goals
    rw [h] at g
    cases g
  all_goals
    simp only [Region.base]
    split <;> omega

theorem plus_toNat (A : Word) (k : Nat) : (plus A k).toNat = (A.toNat + k) % 65536 := by
  simp [plus]

/-- No shadow address of working RAM wraps around (R58). -/
theorem plus_shadow_toNat {A : Word} (h : A.toNat ≤ 0xDDFF) : (plus A 0x2000).toNat = A.toNat + 0x2000 := by
  rw [plus_toNat, Nat.mod_eq_of_lt (by omega)]

/-- Working RAM and its shadow select the same cells (R58). -/
theorem locate_shadow (x : Bool) {A : Word} (h : 0xC000 ≤ A.toNat) (h' : A.toNat ≤ 0xDDFF) :
    locate x (plus A 0x2000) = locate x A := by
  unfold locate
  rw [plus_shadow_toNat h']
  simp (disch := omega) only [if_pos, if_neg, Nat.add_mod_right]

/-- Two addresses of one cell are the same address, or one is the other's shadow. -/
theorem eq_or_shadow_of_cell_eq {A B : Word} (h : cell B = cell A) :
    B = A ∨ (0xC000 ≤ A.toNat ∧ A.toNat ≤ 0xDDFF ∧ B = plus A 0x2000) ∨
      (0xC000 ≤ B.toNat ∧ B.toNat ≤ 0xDDFF ∧ A = plus B 0x2000) := by
  have hA := A.isLt
  have hB := B.isLt
  simp only [← BitVec.toNat_inj, plus_toNat]
  unfold cell at h
  split at h <;> split at h <;> omega

theorem locate_eq_of_cell_eq (x : Bool) {A B : Word} (h : cell B = cell A) : locate x B = locate x A := by
  rcases eq_or_shadow_of_cell_eq h with rfl | ⟨hlo, hhi, rfl⟩ | ⟨hlo, hhi, rfl⟩
  · rfl
  · exact locate_shadow x hlo hhi
  · exact (locate_shadow x hlo hhi).symm

/-- Addresses select the same stored cell exactly when `cell` says so. -/
theorem locate_eq_iff_of_stored (x : Bool) {A : Word} (B : Word) (h : stored A = true) :
    locate x B = locate x A ↔ cell B = cell A := by
  refine ⟨fun hloc => ?_, locate_eq_of_cell_eq x⟩
  rw [← locate_writable x, Loc.writable_iff] at h
  obtain ⟨r, i, hA, -⟩ := h
  rw [cell_of_locate hA, cell_of_locate (hloc.trans hA)]

/-! ### A byte write -/

theorem State.writeLoc_of_not_writable (s : State) (v : Byte) {loc : Loc} (h : loc.writable = false) :
    s.writeLoc v loc = s := by
  cases loc with
  | cell r i => exact if_neg (Bool.eq_false_iff.mp h)
  | absent => rfl

/-- A write where nothing is stored changes nothing (R60, R61, R63). -/
theorem State.memWrite_of_not_stored (s : State) {A : Word} (v : Byte) (h : stored A = false) : s.memWrite A v = s :=
  s.writeLoc_of_not_writable v ((locate_writable s.inbios A).trans h)

/-- The byte a byte write leaves at any address, by the addresses alone (R53, R58, R70). -/
theorem State.memRead_memWrite_hits (s : State) (A B : Word) (v : Byte) :
    (s.memWrite A v).memRead B = if hits A B then v else s.memRead B := by
  cases hst : stored A with
  | false => simp [State.memWrite_of_not_stored s v hst, hits, hst]
  | true =>
    have hloc := locate_eq_iff_of_stored s.inbios B hst
    obtain ⟨r, i, hA, hw⟩ := (Loc.writable_iff _).mp ((locate_writable s.inbios A).trans hst)
    rw [hA] at hloc
    simp [State.memRead_memWrite, hA, hw, hloc, hits, hst]

theorem State.stores_memWrite (s : State) (A : Word) (v : Byte) : stores s (s.memWrite A v) A v :=
  ⟨s.memWrite_bios A v, s.memWrite_rom A v, fun B => s.memRead_memWrite_hits A B v⟩

theorem State.memRead_memWrite_of_cell_eq (s : State) {A B : Word} (v : Byte) (hst : stored A = true)
    (h : cell B = cell A) : (s.memWrite A v).memRead B = v := by
  rw [State.memRead_memWrite_hits, hits, hst, h]
  simp

theorem State.memRead_memWrite_of_cell_ne (s : State) {A B : Word} (v : Byte) (h : cell B ≠ cell A) :
    (s.memWrite A v).memRead B = s.memRead B := by
  rw [State.memRead_memWrite_hits, hits]
  simp [h]

/-- The shadow stands for the same stored cell (R58). -/
theorem cell_plus_shadow {A : Word} (h : 0xC000 ≤ A.toNat) (h' : A.toNat ≤ 0xDDFF) :
    cell (plus A 0x2000) = cell A := by
  rw [cell, cell, plus_shadow_toNat h', if_pos (by omega), if_neg (by omega), Nat.add_sub_cancel]

/-- Settles O49: what a byte write leaves at each address, read at the two addresses of a working RAM cell. -/
theorem readAfterWrite : Obligations.ReadAfterWrite := by
  intro s A v
  refine ⟨s.stores_memWrite A v, fun hlo hhi => ?_, s.memWrite_of_not_stored v⟩
  have hcell := cell_plus_shadow hlo hhi
  have hshadow := plus_shadow_toNat hhi
  exact ⟨s.memRead_memWrite_of_cell_eq v ((stored_iff _).mpr (by omega)) hcell,
    s.memRead_memWrite_of_cell_eq v ((stored_iff _).mpr (by omega)) hcell.symm⟩

end Sys2Proof.Machine
end

section
/-! Word accesses as two byte accesses (20_memory.md R66 to R68, R70, R71). -/

namespace Sys2Proof.Machine

open Sys2Proof.Claim

/-! ### The notation of 00_scope.md R9 -/

theorem pair_eq_joinBytes (hi lo : Byte) : pair hi lo = joinBytes hi lo := (joinBytes_eq_ofNat hi lo).symm

theorem low_eq_loByte (v : Word) : low v = loByte v := by
  apply BitVec.eq_of_toNat_eq
  rw [loByte_toNat, low, BitVec.toNat_ofNat]

theorem high_eq_hiByte (v : Word) : high v = hiByte v := by
  apply BitVec.eq_of_toNat_eq
  have := v.isLt
  rw [hiByte_toNat, high, BitVec.toNat_ofNat]
  omega

/-! ### Words -/

/-- The two addresses of a word never select the same cell (R67). -/
theorem cell_plus_one_ne (A : Word) : cell (plus A 1) ≠ cell A := by
  have hA := A.isLt
  unfold cell
  rw [plus_toNat]
  split <;> split <;> omega

theorem State.memReadWord_eq (s : State) (A : Word) :
    s.memReadWord A = pair (s.memRead (plus A 1)) (s.memRead A) := by
  rw [pair_eq_joinBytes, plus_one, State.memReadWord]

theorem State.memWriteWord_eq (s : State) (A v : Word) :
    s.memWriteWord A v = (s.memWrite A (low v)).memWrite (plus A 1) (high v) := by
  rw [low_eq_loByte, high_eq_hiByte, plus_one, State.memWriteWord]

/-- A stored word reads back: the high byte's write does not reach the low byte's cell (R70, R71). -/
theorem State.memReadWord_memWriteWord (s : State) {A : Word} (v : Word) (hlo : stored A = true)
    (hhi : stored (plus A 1) = true) : (s.memWriteWord A v).memReadWord A = v := by
  rw [State.memReadWord_eq, State.memWriteWord_eq, State.memRead_memWrite_of_cell_eq _ _ hhi rfl,
    State.memRead_memWrite_of_cell_ne _ _ (cell_plus_one_ne A).symm, State.memRead_memWrite_of_cell_eq _ _ hlo rfl,
    pair_eq_joinBytes, low_eq_loByte, high_eq_hiByte, joinBytes_hi_lo]

/-- Settles O50, by the three rules of the word accesses. -/
theorem wordAccess : Obligations.WordAccess :=
  fun s A v => ⟨s.memReadWord_eq A, s.memWriteWord_eq A v, s.memReadWord_memWriteWord v⟩

end Sys2Proof.Machine
end

section
/-! SUPPORT. The tables of 30_encoding.md read by fields: each row of the decoder stands for the instruction that is encoded by
its byte (R91, R94, R95, R99, R102). -/

namespace Sys2Proof

open Sys2Proof.Machine Sys2Proof.Claim

/-! ### The fields of an opcode byte (R94) and the register codes (R95) -/

theorem xyz_fields (op : Byte) : xyz (fieldX op) (fieldY op) (fieldZ op) = op := by
  apply BitVec.eq_of_toNat_eq
  have := op.isLt
  simp only [xyz, fieldX, fieldY, fieldZ, BitVec.toNat_ofNat]
  omega

@[simp] theorem fieldX_xyz (x : Fin 4) (y z : Fin 8) : fieldX (xyz x y z) = x := by
  apply Fin.ext
  simp only [fieldX, xyz, BitVec.toNat_ofNat]
  omega

@[simp] theorem fieldY_xyz (x : Nat) (y z : Fin 8) : fieldY (xyz x y z) = y := by
  apply Fin.ext
  simp only [fieldY, xyz, BitVec.toNat_ofNat]
  omega

@[simp] theorem fieldZ_xyz (x : Nat) (y z : Fin 8) : fieldZ (xyz x y z) = z := by
  apply Fin.ext
  simp only [fieldZ, xyz, BitVec.toNat_ofNat]
  omega

/-- The code of a register as a field of an opcode byte. -/
def regField (r : Reg8) : Fin 8 := ⟨r.code, by cases r <;> decide⟩

@[simp] theorem regOf_regField (r : Reg8) : regOf (regField r) = some r := by
  cases r <;> rfl

/-- A 3-bit code is a register's or 6. -/
theorem code_cases (c : Fin 8) : (∃ r, c = regField r) ∨ c = 6 := by
  cases h : regOf c with
  | some r => exact .inl ⟨r, by decide +revert⟩
  | none => exact .inr (by decide +revert)

/-! ### Every row is encoded by its byte: the primary table (R91, R99) -/

/-- The instruction of a row, given the operand byte and the operand word; each format takes the one it has. -/
def Row.instr (n : Byte) (nn : Word) : Row → Instr
  | .op i => i
  | .opN k => k n
  | .opNN k => k nn
  | .cb => .cbPrefix

/-- The operand bytes of a row's format. -/
def Row.operands (n : Byte) (nn : Word) : Row → List Byte
  | .op _ | .cb => []
  | .opN _ => [n]
  | .opNN _ => wordBytes nn

/-- The bytes of the row's instruction are the given first byte and the operand bytes. -/
def Row.EncodedBy (op : Byte) (row : Row) : Prop :=
  ∀ n nn, encode (row.instr n nn) = op :: row.operands n nn ∧ (row.instr n nn).wf = true

theorem rowX0_encodedBy (y z : Fin 8) : (rowX0 (xyz 0 y z)).EncodedBy (xyz 0 y z) := by
  fin_cases z <;> fin_cases y <;> exact fun _ _ => ⟨rfl, rfl⟩

theorem rowX1_encodedBy (y z : Fin 8) : (rowX1 (xyz 1 y z)).EncodedBy (xyz 1 y z) := by
  rw [rowX1, fieldY_xyz, fieldZ_xyz]
  obtain ⟨rd, rfl⟩ | rfl := code_cases y <;> obtain ⟨rs, rfl⟩ | rfl := code_cases z
  · rw [regOf_regField, regOf_regField]
    exact fun _ _ => ⟨rfl, rfl⟩
  · rw [regOf_regField]
    exact fun _ _ => ⟨rfl, rfl⟩
  · rw [regOf_regField]
    exact fun _ _ => ⟨rfl, rfl⟩
  · exact fun _ _ => ⟨rfl, rfl⟩

/-- A line whose `z` names the operand: a register, or the byte at `hl`. -/
theorem regOr_encodedBy {x y : Nat} {onReg : Reg8 → Instr} {onHL : Instr} (z : Fin 8)
    (hr : ∀ r, encode (onReg r) = [xyz x y r.code] ∧ (onReg r).wf = true)
    (h6 : encode onHL = [xyz x y 6] ∧ onHL.wf = true) : (Row.op (regOr z onReg onHL)).EncodedBy (xyz x y z) := by
  intro _ _
  obtain ⟨r, rfl⟩ | rfl := code_cases z
  · rw [regOr, regOf_regField]
    exact hr r
  · exact h6

theorem rowX2_encodedBy (y z : Fin 8) : (rowX2 (xyz 2 y z)).EncodedBy (xyz 2 y z) := by
  rw [rowX2, fieldY_xyz, fieldZ_xyz]
  fin_cases y <;> exact regOr_encodedBy z (fun _ => ⟨rfl, rfl⟩) ⟨rfl, rfl⟩

theorem rowX3_encodedBy (y z : Fin 8) : (rowX3 (xyz 3 y z)).EncodedBy (xyz 3 y z) := by
  fin_cases z <;> fin_cases y <;> exact fun _ _ => ⟨rfl, rfl⟩

theorem primaryRow_encodedBy (op : Byte) : (primaryRow op).EncodedBy op := by
  rw [← xyz_fields op]
  generalize fieldX op = x, fieldY op = y, fieldZ op = z
  simp only [primaryRow, fieldX_xyz]
  match x with
  | 0 => exact rowX0_encodedBy y z
  | 1 => exact rowX1_encodedBy y z
  | 2 => exact rowX2_encodedBy y z
  | 3 => exact rowX3_encodedBy y z

/-! ### The secondary table (R102) -/

/-- The bytes of the row's instruction are `0xCB` and the given byte. -/
def Secondary.EncodedBy (sub : Byte) (row : Secondary) : Prop :=
  encode row.toInstr = [0xCB, sub] ∧ row.toInstr.wf = true

theorem secRegOr_regField (r : Reg8) (onReg : Reg8 → Secondary) (on6 : Secondary) :
    secRegOr (regField r) onReg on6 = onReg r := by
  rw [secRegOr, regOf_regField]

/-- A line whose `z` names the operand: a register, or the row of code 6. -/
theorem secRegOr_encodedBy {x y : Nat} {onReg : Reg8 → Secondary} {on6 : Secondary} (z : Fin 8)
    (hr : ∀ r, (onReg r).EncodedBy (xyz x y r.code)) (h6 : on6.EncodedBy (xyz x y 6)) :
    (secRegOr z onReg on6).EncodedBy (xyz x y z) := by
  obtain ⟨r, rfl⟩ | rfl := code_cases z
  · rw [secRegOr_regField]
    exact hr r
  · exact h6

/-- The bit index is the field `y` (R110). -/
theorem wfBit_field (y : Fin 8) : wfBit y = true := decide_eq_true y.isLt

theorem secondaryRow_encodedBy (sub : Byte) : (secondaryRow sub).EncodedBy sub := by
  rw [← xyz_fields sub]
  generalize fieldX sub = x, fieldY sub = y, fieldZ sub = z
  simp only [secondaryRow, fieldX_xyz, fieldY_xyz, fieldZ_xyz]
  match x with
  | 0 =>
    dsimp only
    fin_cases y <;> exact secRegOr_encodedBy z (fun _ => ⟨rfl, rfl⟩) ⟨rfl, rfl⟩
  | 1 | 2 | 3 => exact secRegOr_encodedBy z (fun _ => ⟨rfl, wfBit_field y⟩) ⟨rfl, wfBit_field y⟩

end Sys2Proof
end

section
/-! SUPPORT. Decoder and encoder against each other, through the rows of the tables (30_encoding.md R91, R105, R106). -/

namespace Sys2Proof

open Sys2Proof.Machine Sys2Proof.Claim

/-! ### From bytes to the instruction: what decodes is an encoding (R106) -/

theorem wordBytes_wordOf (lo hi : Byte) : wordBytes (wordOf lo hi) = [lo, hi] :=
  congrArg₂ (fun v w => [v, w]) (loByte_joinBytes hi lo) (hiByte_joinBytes hi lo)

/-- The two ways bytes decode: by a secondary row, or by a primary row with the operand bytes of its format. -/
theorem decode_cons_cases {op : Byte} {tail rest : List Byte} {i : Instr} (h : decode (op :: tail) = .ok (i, rest)) :
    (∃ sub, primaryRow op = .cb ∧ tail = sub :: rest ∧ i = (secondaryRow sub).toInstr) ∨
    (∃ n nn, primaryRow op ≠ .cb ∧ tail = (primaryRow op).operands n nn ++ rest ∧ i = (primaryRow op).instr n nn) := by
  rw [decode_cons] at h
  cases hrow : primaryRow op with
  | op j =>
    simp only [hrow] at h
    cases h
    exact .inr ⟨0, 0, nofun, rfl, rfl⟩
  | cb =>
    match tail with
    | [] => simp [hrow] at h
    | sub :: _ =>
      simp only [hrow] at h
      cases h
      exact .inl ⟨sub, rfl, rfl, rfl⟩
  | opN k =>
    match tail with
    | [] => simp [hrow] at h
    | n :: _ =>
      simp only [hrow] at h
      cases h
      exact .inr ⟨n, 0, nofun, rfl, rfl⟩
  | opNN k =>
    match tail with
    | [] | [_] => simp [hrow] at h
    | lo :: hi :: _ =>
      simp only [hrow] at h
      cases h
      exact .inr ⟨0, wordOf lo hi, nofun, by rw [Row.operands, wordBytes_wordOf]; rfl, rfl⟩

/-- Only the byte `0xCB` has the row that reads a secondary byte. -/
theorem eq_of_primaryRow_eq_cb {op : Byte} (h : primaryRow op = .cb) : op = 0xCB := by
  have henc := (primaryRow_encodedBy op 0 0).1
  rw [h] at henc
  exact (List.cons.inj henc).1.symm

theorem encode_of_decode {bytes rest : List Byte} {i : Instr} (h : decode bytes = .ok (i, rest)) :
    bytes = encode i ++ rest ∧ i.wf = true := by
  match bytes with
  | [] => cases h
  | op :: tail =>
    obtain ⟨sub, hrow, rfl, rfl⟩ | ⟨n, nn, -, rfl, rfl⟩ := decode_cons_cases h
    · obtain ⟨henc, hwf⟩ := secondaryRow_encodedBy sub
      rw [henc, eq_of_primaryRow_eq_cb hrow]
      exact ⟨rfl, hwf⟩
    · obtain ⟨henc, hwf⟩ := primaryRow_encodedBy op n nn
      rw [henc]
      exact ⟨rfl, hwf⟩

/-- No row asks for more than two operand bytes. -/
theorem decode_three_bytes (b0 b1 b2 : Byte) : ∃ i rest, decode [b0, b1, b2] = .ok (i, rest) := by
  rw [decode_cons]
  cases primaryRow b0 with
  | op _ | opN _ | opNN _ | cb => exact ⟨_, _, rfl⟩

/-! ### From the instruction to bytes -/

theorem wordOf_wordBytes (nn : Word) : wordOf (nn.setWidth 8) ((nn >>> 8).setWidth 8) = nn := joinBytes_hi_lo nn

section
variable {op : Byte} {i : Instr}

theorem decodes_op (h : primaryRow op = .op i) : decodes [op] i :=
  fun rest => by rw [List.cons_append, decode_cons, h, List.nil_append]

theorem decodes_opN {k : Byte → Instr} (h : primaryRow op = .opN k) (n : Byte) : decodes [op, n] (k n) :=
  fun rest => by rw [List.cons_append, decode_cons, h]; rfl

theorem decodes_opNN {k : Word → Instr} (h : primaryRow op = .opNN k) (nn : Word) :
    decodes (op :: wordBytes nn) (k nn) := by
  intro rest
  rw [List.cons_append, decode_cons, h]
  simp only [wordBytes, List.cons_append, wordOf_wordBytes, List.nil_append]

end

theorem decodes_cb {sub : Byte} {row : Secondary} (h : secondaryRow sub = row) : decodes [0xCB, sub] row.toInstr :=
  fun rest => by rw [← h]; rfl

/-- A bit index is a field `y` (R110). -/
theorem exists_field_of_wfBit {b : Nat} (h : wfBit b = true) : ∃ y : Fin 8, b = y :=
  ⟨⟨b, of_decide_eq_true h⟩, rfl⟩

/-- An `RST` target is eight times a field `y` (R109). -/
theorem exists_field_of_wfRst {v : Byte} (h : wfRst v = true) : ∃ y : Fin 8, v = BitVec.ofNat 8 (8 * y) :=
  ⟨fieldY v, by decide +revert⟩

/-! The rows with a bit index (R102, R110). -/

theorem secondaryRow_bit (y z : Fin 8) : secondaryRow (xyz 1 y z) = secRegOr z (.bitR y) (.bitHL y) := by
  have hx : fieldX (xyz 1 y z) = 1 := fieldX_xyz 1 y z
  simp only [secondaryRow, hx, fieldY_xyz, fieldZ_xyz]

theorem secondaryRow_res (y z : Fin 8) : secondaryRow (xyz 2 y z) = secRegOr z (.resR y) (.resHL y) := by
  have hx : fieldX (xyz 2 y z) = 2 := fieldX_xyz 2 y z
  simp only [secondaryRow, hx, fieldY_xyz, fieldZ_xyz]

theorem secondaryRow_set (y z : Fin 8) : secondaryRow (xyz 3 y z) = secRegOr z (.setR y) (.setHL y) := by
  have hx : fieldX (xyz 3 y z) = 3 := fieldX_xyz 3 y z
  simp only [secondaryRow, hx, fieldY_xyz, fieldZ_xyz]

/-- The encoding of every well-formed instruction but `0xCB` alone is that instruction, whatever bytes follow. -/
theorem decodes_encode {i : Instr} (hwf : i.wf = true) (hcb : i ≠ .cbPrefix) : decodes (encode i) i := by
  cases i with
  | cbPrefix => exact absurd rfl hcb
  | ldRR rd rs => exact decodes_op (by cases rd <;> cases rs <;> rfl)
  | incR r | decR r | ldRHL r | ldHLR r | addAR r | adcAR r | subR r | sbcAR r | andR r | xorR r | orR r | cpR r =>
    exact decodes_op (by cases r <;> rfl)
  | incRr p | decRr p | addHLRr p => exact decodes_op (by cases p <;> rfl)
  | pushQq q => exact decodes_op (by cases q <;> rfl)
  | popRr q =>
    cases q with
    | bc | de | hl => exact decodes_op rfl
    | af => cases hwf
  | retCc cc => exact decodes_op (by cases cc <;> rfl)
  | rst v =>
    obtain ⟨y, rfl⟩ := exists_field_of_wfRst hwf
    exact decodes_op (by fin_cases y <;> rfl)
  | nop | ldBCA | rlca | ldABC | rrca | ldDEA | rla | ldADE | rra | ldiHLA | daa | ldiAHL | cpl | lddHLA | incHL | decHL | scf
  | lddAHL | ccf | halt | addAHL | adcAHL | subHL | sbcAHL | andHL | xorHL | orHL | cpHL | ret | reti | ldCA | jpHL | popAF
  | ldAC | di | ldSPHL | ei | unassignedD3 | unassignedDB | unassignedDD | unassignedE3 | unassignedE4 | unassignedEB
  | unassignedEC | unassignedED | unassignedF4 | unassignedFC | unassignedFD => exact decodes_op rfl
  | ldRN r n => exact decodes_opN (by cases r <;> rfl) n
  | jrCc cc e => exact decodes_opN (by cases cc <;> rfl) e
  | djnz n | jr n | ldHLN n | addAN n | adcAN n | subN n | sbcAN n | ldhNA n | andN n | addSPE n | xorN n | ldhAN n | orN n
  | ldHLSPE n | cpN n => exact decodes_opN rfl n
  | ldRrNn p nn => exact decodes_opNN (by cases p <;> rfl) nn
  | jpCcNn cc nn | callCcNn cc nn => exact decodes_opNN (by cases cc <;> rfl) nn
  | ldNnSP nn | jpNn nn | callNn nn | ldNnA nn | ldANn nn => exact decodes_opNN rfl nn
  | rlcR r | rrcR r | rlR r | rrR r | slaR r | sraR r | sllR r | srlR r => cases r <;> exact decodes_cb rfl
  | rlcHL | rrcHL | rlHL | rrHL | unassignedCB26 | unassignedCB2E | unassignedCB36 | unassignedCB3E => exact decodes_cb rfl
  | bitR b r =>
    obtain ⟨y, rfl⟩ := exists_field_of_wfBit hwf
    exact decodes_cb ((secondaryRow_bit y _).trans (secRegOr_regField r _ _))
  | resR b r =>
    obtain ⟨y, rfl⟩ := exists_field_of_wfBit hwf
    exact decodes_cb ((secondaryRow_res y _).trans (secRegOr_regField r _ _))
  | setR b r =>
    obtain ⟨y, rfl⟩ := exists_field_of_wfBit hwf
    exact decodes_cb ((secondaryRow_set y _).trans (secRegOr_regField r _ _))
  | bitHL b =>
    obtain ⟨y, rfl⟩ := exists_field_of_wfBit hwf
    exact decodes_cb (secondaryRow_bit y 6)
  | resHL b =>
    obtain ⟨y, rfl⟩ := exists_field_of_wfBit hwf
    exact decodes_cb (secondaryRow_res y 6)
  | setHL b =>
    obtain ⟨y, rfl⟩ := exists_field_of_wfBit hwf
    exact decodes_cb (secondaryRow_set y 6)

theorem decodes_of_encode_eq {bytes : List Byte} {i : Instr} (h : encode i = bytes) (hwf : i.wf = true)
    (hcb : i ≠ .cbPrefix) : decodes bytes i :=
  h ▸ decodes_encode hwf hcb

/-! ### The length (R105) -/

/-- The bytes a row takes, the secondary byte of `0xCB` included. -/
def Row.length : Row → Nat
  | .op _ => 1
  | .opN _ | .cb => 2
  | .opNN _ => 3

theorem Row.length_eq_operands (n : Byte) (nn : Word) {row : Row} (h : row ≠ .cb) :
    row.length = 1 + (row.operands n nn).length := by
  cases row with
  | cb => exact absurd rfl h
  | op _ | opN _ | opNN _ => rfl

/-- The table against the two lists of R105, byte by byte. -/
theorem length_primaryRow : ∀ op : Byte, (primaryRow op).length = lengthOf op := by decide

end Sys2Proof
end

section
/-! The claims about the encoding (30_encoding.md): decoder and encoder are inverse to each other, the first byte gives the
length, and only the unassigned slots fault. -/

namespace Sys2Proof.Machine

open Sys2Proof.Claim

/-! ### Round trips and length (R91, R105, R106) -/

/-- Settles O44: each instruction's row gives it back; `0xCB` alone is a row of the primary table. -/
theorem decodeEncode : Obligations.DecodeEncode := by
  intro i rest hwf
  refine ⟨fun hcb => decodes_encode hwf hcb rest, ?_⟩
  rintro rfl
  rfl

/-- Settles O45: the row that decodes stands for the instruction its bytes encode. -/
theorem encodeDecode : Obligations.EncodeDecode := by
  refine ⟨fun bytes rest i h => ?_, decode_three_bytes⟩
  obtain ⟨henc, hwf⟩ := encode_of_decode h
  exact ⟨henc, hwf, decode_ne_cbPrefix h⟩

/-- Settles O46: the row says how many bytes are taken, and the two lists say the same. -/
theorem instructionLength : Obligations.InstructionLength := by
  intro op tail rest i h
  rw [← length_primaryRow]
  obtain ⟨sub, hrow, rfl, -⟩ | ⟨n, nn, hcb, rfl, -⟩ := decode_cons_cases h
  · simp only [hrow, Row.length, List.length_cons]
    omega
  · simp only [Row.length_eq_operands n nn hcb, List.length_cons, List.length_append]
    omega

/-- Settles O47: each word is the encoding of its instruction. -/
theorem decodeWords : Obligations.DecodeWords := by
  refine ⟨?_, ?_, ?_, ?_, ?_, ?_, ?_, ?_, ?_, ?_, ?_, ?_, ?_⟩
  all_goals exact decodes_of_encode_eq rfl rfl nofun

/-! ### The unassigned slots (R103) -/

/-- The instructions of the unassigned slots. -/
def unassignedInstrs : List Instr := (unassignedPrimary ++ unassignedSecondary).map Prod.snd

theorem mem_unassignedInstrs {i : Instr} :
    i ∈ unassignedInstrs ↔ (∃ x ∈ unassignedPrimary, x.2 = i) ∨ ∃ x ∈ unassignedSecondary, x.2 = i := by
  simp only [unassignedInstrs, List.mem_map, List.mem_append, or_and_right, exists_or]

theorem wf_of_mem_unassignedInstrs : ∀ i ∈ unassignedInstrs, i.wf = true ∧ i ≠ .cbPrefix := by decide

theorem encode_unassignedPrimary : ∀ x ∈ unassignedPrimary, encode x.2 = [x.1] := by decide

theorem encode_unassignedSecondary : ∀ x ∈ unassignedSecondary, encode x.2 = [0xCB, x.1] := by decide

theorem unassigned_cons {op : Byte} {tail : List Byte} : unassigned (op :: tail) = true ↔
    (∃ x ∈ unassignedPrimary, x.1 = op) ∨
      ∃ sub rest, op = 0xCB ∧ tail = sub :: rest ∧ ∃ x ∈ unassignedSecondary, x.1 = sub := by
  cases tail with
  | nil => simp [unassigned]
  | cons sub rest => simp [unassigned]

/-- Bytes begin with an unassigned slot exactly when they begin with the encoding of its instruction. -/
theorem unassigned_iff {bytes : List Byte} :
    unassigned bytes = true ↔ ∃ i ∈ unassignedInstrs, ∃ rest, bytes = encode i ++ rest := by
  constructor
  · intro h
    match bytes with
    | [] => cases h
    | op :: tail =>
      obtain ⟨x, hx, rfl⟩ | ⟨_, rest, rfl, rfl, x, hx, rfl⟩ := unassigned_cons.mp h
      · exact ⟨x.2, mem_unassignedInstrs.mpr (.inl ⟨x, hx, rfl⟩), tail, by rw [encode_unassignedPrimary x hx]; rfl⟩
      · exact ⟨x.2, mem_unassignedInstrs.mpr (.inr ⟨x, hx, rfl⟩), rest, by rw [encode_unassignedSecondary x hx]; rfl⟩
  · rintro ⟨i, hi, rest, rfl⟩
    obtain ⟨x, hx, rfl⟩ | ⟨x, hx, rfl⟩ := mem_unassignedInstrs.mp hi
    · rw [encode_unassignedPrimary x hx]
      exact unassigned_cons.mpr (.inl ⟨x, hx, rfl⟩)
    · rw [encode_unassignedSecondary x hx]
      exact unassigned_cons.mpr (.inr ⟨x.1, rest, rfl, rfl, x, hx, rfl⟩)

theorem unassigned_iff_mem {bytes rest : List Byte} {i : Instr} (h : decode bytes = .ok (i, rest)) :
    unassigned bytes = true ↔ i ∈ unassignedInstrs := by
  rw [unassigned_iff]
  constructor
  · rintro ⟨j, hj, tail, rfl⟩
    obtain ⟨hwf, hcb⟩ := wf_of_mem_unassignedInstrs j hj
    rw [decodes_encode hwf hcb] at h
    cases h
    exact hj
  · exact fun hi => ⟨i, hi, rest, (encode_of_decode h).1⟩

@[simp] theorem State.branch_stop (s : State) (e : Byte) : (s.branch e).stop = s.stop := rfl

/-- The handlers of the slots raise the fault (R315, R316, R331). -/
theorem exec_unassigned {i : Instr} (s : State) (h : i ∈ unassignedInstrs) :
    EndsIn (fun t => t.stop = true) (exec i s) := by
  fin_cases h
  all_goals exact ⟨_, rfl, rfl⟩

/-- Every other instruction completes, and leaves `stop` alone. -/
theorem exec_stop {i : Instr} (s : State) (hcb : i ≠ .cbPrefix) (h : i ∉ unassignedInstrs) :
    EndsIn (fun t => t.stop = s.stop) (exec i s) := by
  cases i with
  | cbPrefix => exact absurd rfl hcb
  | unassignedD3 | unassignedDB | unassignedDD | unassignedE3 | unassignedE4 | unassignedEB | unassignedEC | unassignedED
  | unassignedF4 | unassignedFC | unassignedFD | unassignedCB26 | unassignedCB2E | unassignedCB36 | unassignedCB3E =>
    exact absurd (by decide) h
  | jpCcNn _ _ | jrCc _ _ | callCcNn _ _ | retCc _ | djnz _ => exact .ite ⟨_, rfl, by simp⟩ ⟨_, rfl, by simp⟩
  | _ => exact ⟨_, rfl, by simp⟩

/-- Settles O41: what decodes is the instruction its bytes encode, and of those only the fifteen slots raise the fault. -/
theorem onlyUnassignedSlotsFault : Obligations.OnlyUnassignedSlotsFault := by
  intro bytes rest i s t hdec hs hexec
  rw [unassigned_iff_mem hdec]
  by_cases hu : i ∈ unassignedInstrs
  · exact iff_of_true ((exec_unassigned s hu).of_eq hexec) hu
  · have ht := (exec_stop s (decode_ne_cbPrefix hdec) hu).of_eq hexec
    exact iff_of_false (by rw [ht, hs]; exact Bool.false_ne_true) hu

end Sys2Proof.Machine
end

section
/-! SUPPORT. The frames of the statements about instructions (10_state.md R20 to R36, 70_reset_and_hazards.md R374), said once
per operation on the state and composed. -/

namespace Sys2Proof.Machine

open Sys2Proof.Claim

/-! ### Registers, `pc`, `ime`, the run: `within` before the cost is charged -/

/-- Only the listed registers, `sp`, `f`, the cost counters and memory can differ. -/
structure State.WritesRegs (s t : State) (but : List Reg8) : Prop where
  regs : sameRegs s t but
  pc : samePc s t
  ime : t.ime = s.ime
  run : sameRun s t

namespace State.WritesRegs

variable {s t u : State} {but but' : List Reg8}

theorem trans (h : s.WritesRegs t but) (g : t.WritesRegs u but') : s.WritesRegs u (but ++ but') where
  regs r hr := by
    rw [List.mem_append, not_or] at hr
    exact (g.regs r hr.2).trans (h.regs r hr.1)
  pc := ⟨g.pc.1.trans h.pc.1, g.pc.2.trans h.pc.2⟩
  ime := g.ime.trans h.ime
  run := by
    obtain ⟨hhalt, hstop, hfault, hclockM, hclockT⟩ := h.run
    obtain ⟨ghalt, gstop, gfault, gclockM, gclockT⟩ := g.run
    exact ⟨ghalt.trans hhalt, gstop.trans hstop, gfault.trans hfault, gclockM.trans hclockM, gclockT.trans hclockT⟩

theorem setReg (s : State) (r : Reg8) (v : Byte) : s.WritesRegs (s.setReg r v) [r] where
  regs q hq := s.reg_setReg_ne r q v (List.ne_of_not_mem_cons hq)
  pc := ⟨s.setReg_pc r v, s.setReg_inbios r v⟩
  ime := s.setReg_ime r v
  run := ⟨s.setReg_halt r v, s.setReg_stop r v, s.setReg_fault r v, s.setReg_clockM r v, s.setReg_clockT r v⟩

theorem setHL (s : State) (v : Word) : s.WritesRegs (s.setHL v) [.h, .l] where
  regs r hr := by
    cases r with
    | h | l => simp at hr
    | _ => rfl
  pc := ⟨rfl, rfl⟩
  ime := rfl
  run := ⟨rfl, rfl, rfl, rfl, rfl⟩

theorem memWrite (s : State) (A : Word) (v : Byte) : s.WritesRegs (s.memWrite A v) [] where
  regs r _ := State.reg_congr (s.memWrite_a A v) (s.memWrite_b A v) (s.memWrite_c A v) (s.memWrite_d A v)
    (s.memWrite_e A v) (s.memWrite_h A v) (s.memWrite_l A v) r
  pc := ⟨s.memWrite_pc A v, s.memWrite_inbios A v⟩
  ime := s.memWrite_ime A v
  run := ⟨s.memWrite_halt A v, s.memWrite_stop A v, s.memWrite_fault A v, s.memWrite_clockM A v, s.memWrite_clockT A v⟩

theorem within_cost (h : s.WritesRegs u but) (n : Nat) : within s (u.cost n) but n :=
  ⟨h.regs, h.pc, h.ime, h.run, rfl, rfl⟩

end State.WritesRegs

/-! ### `sp` and memory: `noStore` -/

theorem noStore_trans {s t u : State} (h : noStore s t) (g : noStore t u) : noStore s u := by
  obtain ⟨hsp, harr, hread⟩ := h
  obtain ⟨gsp, garr, gread⟩ := g
  exact ⟨gsp.trans hsp, fun r => (garr r).trans (harr r), fun A => (gread A).trans (hread A)⟩

theorem noStore_of_sameArrays {s t : State} (hsp : t.sp = s.sp) (hin : t.inbios = s.inbios) (harr : sameArrays s t) :
    noStore s t := ⟨hsp, harr, State.memRead_congr hin harr⟩

theorem State.noStore_cost (s : State) (n : Nat) : noStore s (s.cost n) :=
  noStore_of_sameArrays rfl rfl fun _ => rfl

theorem State.noStore_setHL (s : State) (v : Word) : noStore s (s.setHL v) :=
  noStore_of_sameArrays rfl rfl fun _ => rfl

theorem State.noStore_setReg (s : State) (r : Reg8) (v : Byte) : noStore s (s.setReg r v) := by
  cases r <;> exact noStore_of_sameArrays rfl rfl fun _ => rfl

/-- What writes no memory leaves the store before it as it was. -/
theorem stores_trans_noStore {s t u : State} {A : Word} {v : Byte} (h : stores s t A v) (g : noStore t u) :
    stores s u A v := by
  obtain ⟨hbios, hrom, hread⟩ := h
  obtain ⟨-, garr, gread⟩ := g
  exact ⟨(garr .bios).trans hbios, (garr .rom).trans hrom, fun B => (gread B).trans (hread B)⟩

/-! ### The addresses the statements write out (10_state.md R22; 30_encoding.md R107) -/

theorem State.pair_b_c (s : State) : pair s.b s.c = s.bc := pair_eq_joinBytes s.b s.c

theorem State.pair_d_e (s : State) : pair s.d s.e = s.de := pair_eq_joinBytes s.d s.e

theorem State.pair_h_l (s : State) : pair s.h s.l = s.hl := pair_eq_joinBytes s.h s.l

theorem atHL_eq (s : State) : atHL s = s.atHL := congrArg s.memRead s.pair_h_l

theorem ofNat_eq_highPage (n : Byte) : BitVec.ofNat 16 (0xFF00 + n.toNat) = highPage n :=
  (joinBytes_eq_ofNat 0xFF n).symm

/-- Adding 65535 subtracts 1 (00_scope.md R9). -/
theorem plus_65535 (v : Word) : plus v 65535 = v - 1 := by
  apply BitVec.eq_of_toNat_eq
  rw [plus_toNat, BitVec.toNat_sub]
  simp [Nat.add_comm]

/-! ### The encodings the statements write out (30_encoding.md R93, R95) -/

theorem code_eq (r : Reg8) : code r = r.code := by
  cases r <;> rfl

theorem wordBytes_pair (hi lo : Byte) : wordBytes (pair hi lo) = [lo, hi] := by
  rw [pair_eq_joinBytes, ← wordOf_eq, wordBytes_wordOf]

end Sys2Proof.Machine
end

section
/-! The claims about the 8-bit loads (40_load8.md): each instruction writes a register or stores a byte, some move `hl` after
that, and then the cost is charged. -/

namespace Sys2Proof.Machine

open Sys2Proof.Claim

/-! ### A load and a store, whatever the address -/

theorem State.loads_setReg_cost (s : State) (r : Reg8) (v : Byte) (n : Nat) : loads s ((s.setReg r v).cost n) r v n :=
  ⟨s.reg_setReg_same r v, s.setReg_f r v, (State.WritesRegs.setReg s r v).within_cost n,
    noStore_trans (s.noStore_setReg r v) (State.noStore_cost _ n)⟩

theorem State.storesByte_memWrite_cost (s : State) (A : Word) (v : Byte) (n : Nat) :
    storesByte s ((s.memWrite A v).cost n) A v n :=
  ⟨stores_trans_noStore (s.stores_memWrite A v) (State.noStore_cost _ n), s.memWrite_f A v, s.memWrite_sp A v,
    (State.WritesRegs.memWrite s A v).within_cost n⟩

/-! ### An access at `hl`, then a new value for `hl` -/

theorem State.setsHL_setHL (s : State) (v : Word) : setsHL (s.setHL v) v :=
  ⟨(high_eq_hiByte v).symm, (low_eq_loByte v).symm⟩

/-- What LDI and LDD do to store `a`: `a` at the old `hl`, then `w` to `hl` (R130, R132). -/
def storesThenSetsHL (s t : State) (w : Word) : Prop :=
  stores s t s.hl s.a ∧ setsHL t w ∧ t.f = s.f ∧ t.sp = s.sp ∧ within s t [.h, .l] 2

/-- What LDI and LDD do to load `a`: the byte at the old `hl` to `a`, then `w` to `hl` (R131, R133). -/
def loadsThenSetsHL (s t : State) (w : Word) : Prop :=
  t.a = s.atHL ∧ setsHL t w ∧ t.f = s.f ∧ within s t [.a, .h, .l] 2 ∧ noStore s t

theorem State.storesThenSetsHL_memWrite_setHL (s : State) (w : Word) :
    storesThenSetsHL s (((s.memWrite s.hl s.a).setHL w).cost 2) w :=
  ⟨stores_trans_noStore (s.stores_memWrite s.hl s.a) (noStore_trans (State.noStore_setHL _ w) (State.noStore_cost _ 2)),
    (s.memWrite s.hl s.a).setsHL_setHL w, s.memWrite_f s.hl s.a, s.memWrite_sp s.hl s.a,
    ((State.WritesRegs.memWrite s s.hl s.a).trans (.setHL _ w)).within_cost 2⟩

theorem State.loadsThenSetsHL_setReg_setHL (s : State) (w : Word) :
    loadsThenSetsHL s (((s.setReg .a s.atHL).setHL w).cost 2) w :=
  ⟨rfl, (s.setReg .a s.atHL).setsHL_setHL w, rfl, ((State.WritesRegs.setReg s .a s.atHL).trans (.setHL _ w)).within_cost 2,
    noStore_trans (s.noStore_setReg .a s.atHL) (noStore_trans (State.noStore_setHL _ w) (State.noStore_cost _ 2))⟩

/-- Settles O3: the access at the old `hl`, then `hl + 1` or `hl - 1` to `hl`. -/
theorem loadPostModify : Obligations.LoadPostModify := by
  refine ⟨decodes_of_encode_eq rfl rfl nofun, decodes_of_encode_eq rfl rfl nofun, decodes_of_encode_eq rfl rfl nofun,
    decodes_of_encode_eq rfl rfl nofun, fun s => ?_⟩
  rw [atHL_eq, s.pair_h_l, plus_one, plus_65535]
  exact ⟨⟨_, rfl, s.storesThenSetsHL_memWrite_setHL _⟩, ⟨_, rfl, s.loadsThenSetsHL_setReg_setHL _⟩,
    ⟨_, rfl, s.storesThenSetsHL_memWrite_setHL _⟩, ⟨_, rfl, s.loadsThenSetsHL_setReg_setHL _⟩⟩

/-- Settles O4: every byte store is `storesByte_memWrite_cost` at its own address. -/
theorem storeByte : Obligations.StoreByte := by
  refine ⟨fun r => decodes_of_encode_eq (by rw [code_eq]; rfl) rfl nofun, fun _ => decodes_of_encode_eq rfl rfl nofun,
    decodes_of_encode_eq rfl rfl nofun, decodes_of_encode_eq rfl rfl nofun, fun _ => decodes_of_encode_eq rfl rfl nofun,
    decodes_of_encode_eq rfl rfl nofun,
    fun lo hi => decodes_of_encode_eq (congrArg _ (wordBytes_pair hi lo)) rfl nofun, fun s => ?_⟩
  simp only [s.pair_h_l, s.pair_b_c, s.pair_d_e, ofNat_eq_highPage]
  refine ⟨fun r => ?_, fun n => ?_, ?_, ?_, fun n => ?_, ?_, fun nn => ?_⟩
  all_goals exact ⟨_, rfl, s.storesByte_memWrite_cost _ _ _⟩

/-- Settles O1: each load is `loads_setReg_cost` with its own byte, the one at `hl` read before the register changes. -/
theorem loadRegister : Obligations.LoadRegister := by
  refine ⟨fun rd rs => decodes_of_encode_eq (by rw [code_eq, code_eq]; rfl) rfl nofun,
    fun r => decodes_of_encode_eq (by rw [code_eq]; rfl) rfl nofun,
    fun r n => decodes_of_encode_eq (by rw [code_eq]; rfl) rfl nofun, fun s => ?_⟩
  rw [atHL_eq]
  refine ⟨fun rd rs => ?_, fun r => ?_, fun r n => ?_⟩
  all_goals exact ⟨_, rfl, s.loads_setReg_cost _ _ _⟩

/-- Settles O2: each load is `loads_setReg_cost` with the byte at its own address. -/
theorem loadAccumulator : Obligations.LoadAccumulator := by
  refine ⟨decodes_of_encode_eq rfl rfl nofun, decodes_of_encode_eq rfl rfl nofun,
    fun _ => decodes_of_encode_eq rfl rfl nofun, decodes_of_encode_eq rfl rfl nofun,
    fun lo hi => decodes_of_encode_eq (congrArg _ (wordBytes_pair hi lo)) rfl nofun, fun s => ?_⟩
  simp only [s.pair_b_c, s.pair_d_e, ofNat_eq_highPage]
  refine ⟨?_, ?_, fun n => ?_, ?_, fun nn => ?_⟩
  all_goals exact ⟨_, rfl, s.loads_setReg_cost _ _ _⟩

end Sys2Proof.Machine
end

section
/-! SUPPORT. The 16-bit writes: their frames, and the notation their statements use (00_scope.md R9; 10_state.md R22, R25,
R26; 20_memory.md R67; 30_encoding.md R96, R108). -/

namespace Sys2Proof.Machine

open Sys2Proof.Claim

/-! ### A pair -/

theorem pairCode_eq (p : RR) : pairCode p = p.code := by
  cases p <;> rfl

theorem State.pairValue_setRR (s : State) (p : RR) (v : Word) : pairValue (s.setRR p v) p = v := by
  cases p with
  | bc | de | hl => exact (pair_eq_joinBytes _ _).trans (joinBytes_hi_lo v)
  | sp => rfl

theorem State.setRR_sp_of_ne (s : State) {p : RR} (v : Word) (hp : p ≠ .sp) : (s.setRR p v).sp = s.sp := by
  cases p with
  | bc | de | hl => rfl
  | sp => exact absurd rfl hp

/-! ### Frames -/

namespace State.WritesRegs

theorem setSp (s : State) (v : Word) : s.WritesRegs { s with sp := v } [] :=
  ⟨fun _ _ => rfl, ⟨rfl, rfl⟩, rfl, rfl, rfl, rfl, rfl, rfl⟩

theorem setF (s : State) (f : Byte) : s.WritesRegs { s with f := f } [] :=
  ⟨fun _ _ => rfl, ⟨rfl, rfl⟩, rfl, rfl, rfl, rfl, rfl, rfl⟩

/-- A pair is its high register, then its low one; `sp` is none of the seven (R22). -/
theorem setRR (s : State) (p : RR) (v : Word) : s.WritesRegs (s.setRR p v) (pairRegs p) := by
  cases p with
  | bc => exact (setReg s .b (hiByte v)).trans (setReg _ .c (loByte v))
  | de => exact (setReg s .d (hiByte v)).trans (setReg _ .e (loByte v))
  | hl => exact setHL s v
  | sp => exact setSp s v

theorem memWriteWord (s : State) (A v : Word) : s.WritesRegs (s.memWriteWord A v) [] :=
  (memWrite s A (loByte v)).trans (memWrite _ (A + 1) (hiByte v))

end State.WritesRegs

theorem sameMemory_trans {s t u : State} (h : sameMemory s t) (g : sameMemory t u) : sameMemory s u := by
  obtain ⟨harr, hread⟩ := h
  obtain ⟨garr, gread⟩ := g
  exact ⟨fun r => (garr r).trans (harr r), fun A => (gread A).trans (hread A)⟩

theorem sameMemory_of_sameArrays {s t : State} (hin : t.inbios = s.inbios) (harr : sameArrays s t) : sameMemory s t :=
  ⟨harr, State.memRead_congr hin harr⟩

theorem State.sameMemory_cost (s : State) (n : Nat) : sameMemory s (s.cost n) :=
  (s.noStore_cost n).2

theorem State.sameMemory_setRR (s : State) (p : RR) (v : Word) : sameMemory s (s.setRR p v) := by
  cases p <;> exact sameMemory_of_sameArrays rfl fun _ => rfl

theorem State.noStore_setF (s : State) (f : Byte) : noStore s { s with f := f } :=
  noStore_of_sameArrays rfl rfl fun _ => rfl

/-! ### Two byte stores -/

theorem storesTwo_of_stores {s t u : State} {A A' : Word} {v v' : Byte} (h : stores s t A v) (g : stores t u A' v') :
    storesTwo s u A v A' v' := by
  obtain ⟨hbios, hrom, hread⟩ := h
  obtain ⟨gbios, grom, gread⟩ := g
  exact ⟨gbios.trans hbios, grom.trans hrom, fun B => by rw [gread, hread]⟩

/-- The word write is its two byte writes, low byte first (R67). -/
theorem State.storesTwo_memWriteWord_cost (s : State) (A v : Word) (n : Nat) :
    storesTwo s ((s.memWriteWord A v).cost n) A (low v) (plus A 1) (high v) := by
  rw [s.memWriteWord_eq]
  exact storesTwo_of_stores (s.stores_memWrite A (low v))
    (stores_trans_noStore (State.stores_memWrite _ _ _) (State.noStore_cost _ n))

/-! ### The four flags -/

theorem flags_of_eq_setZNHC {s t : State} {z n h c : Bool} (hf : t.f = setZNHC s.f z n h c) : flags s t z n h c := by
  unfold flags
  simp only [hf, getLsbD_setZNHC]
  refine ⟨rfl, rfl, rfl, rfl, fun k hk => ?_⟩
  rw [if_neg (by omega), if_neg (by omega), if_neg (by omega), if_neg (by omega)]

/-! ### The signed offset -/

/-- Adding the amount `sext e` is adding `sext8(e)` (R108). -/
theorem plus_sext (v : Word) (e : Byte) : plus v (sext e) = v + sext8 e := by
  apply BitVec.eq_of_toNat_eq
  rw [plus_toNat, BitVec.toNat_add, sext8_toNat, sext]
  split <;> omega

end Sys2Proof.Machine
end

section
/-! The claims about the 16-bit loads and `ADD SP,e` (41_load16.md; 46_arith16.md R261). -/

namespace Sys2Proof.Machine

open Sys2Proof.Claim

/-- Settles O6: the word write is `storesTwo_memWriteWord_cost`. -/
theorem storeStackPointer : Obligations.StoreStackPointer :=
  ⟨fun lo hi => decodes_of_encode_eq (congrArg _ (wordBytes_pair hi lo)) rfl nofun, fun s nn =>
    ⟨_, rfl, s.storesTwo_memWriteWord_cost nn s.sp 5, s.memWriteWord_f nn s.sp, s.memWriteWord_sp nn s.sp,
      (State.WritesRegs.memWriteWord s nn s.sp).within_cost 5⟩⟩

/-! ### A pair written, and nothing but the cost after it -/

/-- The pair `p` receives `v` at cost `n`; no flag, nothing else (R150, R152). -/
def loadsPair (s t : State) (p : RR) (v : Word) (n : Nat) : Prop :=
  pairValue t p = v ∧ (p ≠ .sp → t.sp = s.sp) ∧ t.f = s.f ∧ within s t (pairRegs p) n ∧ sameMemory s t

theorem State.loadsPair_setRR_cost (s : State) (p : RR) (v : Word) (n : Nat) :
    loadsPair s ((s.setRR p v).cost n) p v n :=
  ⟨s.pairValue_setRR p v, s.setRR_sp_of_ne v, s.setRR_f p v, (State.WritesRegs.setRR s p v).within_cost n,
    sameMemory_trans (s.sameMemory_setRR p v) (State.sameMemory_cost _ n)⟩

/-- Settles O5: `LD SP,HL` too writes a pair, the pair `sp`. -/
theorem loadPair : Obligations.LoadPair := by
  refine ⟨fun p lo hi => decodes_of_encode_eq ?_ rfl nofun, decodes_of_encode_eq rfl rfl nofun, fun s =>
    ⟨fun p nn => ⟨_, rfl, s.loadsPair_setRR_cost p nn 3⟩, ?_⟩⟩
  · rw [pairCode_eq, ← wordBytes_pair hi lo]
    rfl
  · obtain ⟨hval, -, hframe⟩ := s.loadsPair_setRR_cost .sp s.hl 2
    exact ⟨_, rfl, hval.trans s.pair_h_l.symm, hframe⟩

/-! ### `sp + sext8(e)` -/

theorem flags_of_eq_addSP {s t : State} {e : Byte} (hf : t.f = (addSP s.sp e s.f).2) :
    flags s t false false false (decide (s.sp.toNat % 256 + e.toNat > 0xFF)) :=
  flags_of_eq_setZNHC (by rw [hf, addSP, loByte_toNat])

/-- Settles O7: the new `f`, then `sp + sext8(e)` to `hl` or to `sp`. -/
theorem stackPointerOffset : Obligations.StackPointerOffset := by
  refine ⟨fun _ => decodes_of_encode_eq rfl rfl nofun, fun _ => decodes_of_encode_eq rfl rfl nofun, fun s e => ?_⟩
  rw [plus_sext]
  have hf := State.WritesRegs.setF s (addSP s.sp e s.f).2
  have hmem := s.noStore_setF (addSP s.sp e s.f).2
  refine ⟨⟨_, rfl, s.setsHL_setHL _, flags_of_eq_addSP rfl, (hf.trans (.setHL _ _)).within_cost 3, ?_⟩,
    ⟨_, rfl, rfl, flags_of_eq_addSP rfl, (hf.trans (.setSp _ _)).within_cost 4, ?_⟩⟩
  · exact noStore_trans hmem (noStore_trans (State.noStore_setHL _ _) (State.noStore_cost _ 3))
  · exact sameMemory_trans hmem.2 (sameMemory_trans (State.sameMemory_setRR _ .sp _) (State.sameMemory_cost _ 4))

end Sys2Proof.Machine
end

section
/-! SUPPORT. The read-modify-write of a register and of the byte at `hl`, and counting by one (42_incdec.md R170 to R175;
10_state.md R25 to R28). -/

namespace Sys2Proof.Machine

open Sys2Proof.Claim

/-! ### A register or the byte at `hl` replaced, with the new `f`, whatever the operation -/

namespace State.WritesRegs

theorem onReg (s : State) (r : Reg8) (op : Byte → Byte → Byte × Byte) : s.WritesRegs (s.onReg r op) [r] :=
  (setReg s r _).trans (setF _ _)

theorem onHL (s : State) (op : Byte → Byte → Byte × Byte) : s.WritesRegs (s.onHL op) [] :=
  (memWrite s s.hl _).trans (setF _ _)

end State.WritesRegs

theorem State.reg_onReg_same (s : State) (r : Reg8) (op : Byte → Byte → Byte × Byte) :
    (s.onReg r op).reg r = (op (s.reg r) s.f).1 :=
  s.reg_setReg_same r _

theorem State.noStore_onReg (s : State) (r : Reg8) (op : Byte → Byte → Byte × Byte) : noStore s (s.onReg r op) :=
  noStore_trans (s.noStore_setReg r _) (State.noStore_setF _ _)

theorem State.stores_onHL (s : State) (op : Byte → Byte → Byte × Byte) :
    stores s (s.onHL op) s.hl (op s.atHL s.f).1 :=
  stores_trans_noStore (s.stores_memWrite s.hl _) (State.noStore_setF _ _)

/-! ### `Z` and `N` written, `H` and `C` kept -/

theorem flags_of_eq_setN_setZ {s t : State} {z n : Bool} (hf : t.f = setN (setZ s.f z) n) :
    flags s t z n (s.f.getLsbD 5) (s.f.getLsbD 4) := by
  unfold flags
  simp only [hf, getLsbD_setN, getLsbD_setZ]
  refine ⟨rfl, rfl, rfl, rfl, fun k hk => ?_⟩
  rw [if_neg (by omega), if_neg (by omega)]

/-! ### Counting by one -/

/-- The operation adds `k` modulo 256, takes `Z` from that value and writes `n` to `N`. -/
structure CountsBy (op : Byte → Byte → Byte × Byte) (k : Nat) (n : Bool) : Prop where
  value (v f : Byte) : (op v f).1 = BitVec.ofNat 8 (v.toNat + k)
  newF (v f : Byte) : (op v f).2 = setN (setZ f ((op v f).1 == 0)) n

theorem inc8_countsBy : CountsBy inc8 1 false where
  value v _ := BitVec.eq_of_toNat_eq (by simp [inc8])
  newF _ _ := rfl

/-- Adding 255 subtracts 1 (00_scope.md R9). -/
theorem dec8_countsBy : CountsBy dec8 255 true where
  value v _ := BitVec.eq_of_toNat_eq (by simp [dec8, BitVec.toNat_sub, Nat.add_comm])
  newF _ _ := rfl

namespace CountsBy

variable {op : Byte → Byte → Byte × Byte} {k : Nat} {n : Bool}

theorem value_toNat (h : CountsBy op k n) (v f : Byte) : (op v f).1.toNat = (v.toNat + k) % 256 := by
  rw [h.value, BitVec.toNat_ofNat]

theorem flags_of_eq (h : CountsBy op k n) {s t : State} {v : Byte} (hf : t.f = (op v s.f).2) :
    flags s t (decide ((v.toNat + k) % 256 = 0)) n (s.f.getLsbD 5) (s.f.getLsbD 4) :=
  flags_of_eq_setN_setZ (by rw [hf, h.newF, byte_beq_zero, h.value_toNat])

end CountsBy

end Sys2Proof.Machine
end

section
/-! The claims about increment and decrement (42_incdec.md). -/

namespace Sys2Proof.Machine

open Sys2Proof.Claim

/-! ### The byte at `hl` -/

/-- The byte at `hl` plus `k` is stored there, `Z` and `N` as given by that value and `n` (R172, R173). -/
def countsHL (s t : State) (k : Nat) (n : Bool) : Prop :=
  stores s t s.hl (BitVec.ofNat 8 (s.atHL.toNat + k)) ∧
    flags s t (decide ((s.atHL.toNat + k) % 256 = 0)) n (s.f.getLsbD 5) (s.f.getLsbD 4) ∧ t.sp = s.sp ∧ within s t [] 3

theorem CountsBy.countsHL_onHL_cost {op : Byte → Byte → Byte × Byte} {k : Nat} {n : Bool} (h : CountsBy op k n)
    (s : State) : countsHL s ((s.onHL op).cost 3) k n := by
  have hst := stores_trans_noStore (s.stores_onHL op) (State.noStore_cost _ 3)
  rw [h.value] at hst
  exact ⟨hst, h.flags_of_eq rfl, s.onHL_sp op, (State.WritesRegs.onHL s op).within_cost 3⟩

/-- Settles O9: the byte stored and the flags both come from the value computed, so whether the store is ignored does not
matter to the flags. -/
theorem incDecMemory : Obligations.IncDecMemory := by
  refine ⟨decodes_of_encode_eq rfl rfl nofun, decodes_of_encode_eq rfl rfl nofun, fun s => ?_⟩
  rw [atHL_eq, s.pair_h_l]
  exact ⟨⟨_, rfl, inc8_countsBy.countsHL_onHL_cost s⟩, ⟨_, rfl, dec8_countsBy.countsHL_onHL_cost s⟩⟩

/-! ### A register -/

/-- The register `r` counts by `k`, `Z` and `N` as given by its new value and `n` (R170, R171). -/
def countsReg (s t : State) (r : Reg8) (k : Nat) (n : Bool) : Prop :=
  (t.reg r).toNat = ((s.reg r).toNat + k) % 256 ∧
    flags s t (decide ((t.reg r).toNat = 0)) n (s.f.getLsbD 5) (s.f.getLsbD 4) ∧ within s t [r] 1 ∧ noStore s t

theorem CountsBy.countsReg_onReg_cost {op : Byte → Byte → Byte × Byte} {k : Nat} {n : Bool} (h : CountsBy op k n)
    (s : State) (r : Reg8) : countsReg s ((s.onReg r op).cost 1) r k n := by
  have hval : (((s.onReg r op).cost 1).reg r).toNat = ((s.reg r).toNat + k) % 256 :=
    (congrArg BitVec.toNat (s.reg_onReg_same r op)).trans (h.value_toNat _ _)
  refine ⟨hval, ?_, (State.WritesRegs.onReg s r op).within_cost 1,
    noStore_trans (s.noStore_onReg r op) (State.noStore_cost _ 1)⟩
  rw [hval]
  exact h.flags_of_eq rfl

/-- Settles O8: both are `countsReg_onReg_cost`, by 1 and by 255. -/
theorem incDecRegister : Obligations.IncDecRegister := by
  refine ⟨fun r => decodes_of_encode_eq (by rw [code_eq]; rfl) rfl nofun,
    fun r => decodes_of_encode_eq (by rw [code_eq]; rfl) rfl nofun, fun s r => ?_⟩
  exact ⟨⟨_, rfl, inc8_countsBy.countsReg_onReg_cost s r⟩, ⟨_, rfl, dec8_countsBy.countsReg_onReg_cost s r⟩⟩

/-! ### A pair -/

theorem State.pairValue_eq_rr (s : State) (p : RR) : pairValue s p = s.rr p := by
  cases p with
  | bc => exact s.pair_b_c
  | de => exact s.pair_d_e
  | hl => exact s.pair_h_l
  | sp => rfl

/-- Settles O10: a pair is written as the loads write it, and counting it writes nothing else. -/
theorem incDecPair : Obligations.IncDecPair := by
  refine ⟨fun p => decodes_of_encode_eq (by rw [pairCode_eq]; rfl) rfl nofun,
    fun p => decodes_of_encode_eq (by rw [pairCode_eq]; rfl) rfl nofun, fun s p => ?_⟩
  rw [s.pairValue_eq_rr, plus_one, plus_65535]
  exact ⟨⟨_, rfl, s.loadsPair_setRR_cost p _ 2⟩, ⟨_, rfl, s.loadsPair_setRR_cost p _ 2⟩⟩

end Sys2Proof.Machine
end

section
/-! SUPPORT. An operation on the accumulator: its frame, the value it makes and the flags it writes (43_alu8.md R180 to R209;
10_state.md R25 to R28). -/

namespace Sys2Proof.Machine

open Sys2Proof.Claim

/-! ### `a` and `f` written, and nothing but the cost after it -/

namespace State.WritesRegs

theorem setAF (s : State) (a f : Byte) : s.WritesRegs { s with a := a, f := f } [.a] :=
  (setReg s .a a).trans (setF _ f)

theorem alu (s : State) (op : Byte → Byte → Byte → Byte × Byte) (v : Byte) : s.WritesRegs (s.alu op v) [.a] :=
  setAF s _ _

end State.WritesRegs

theorem State.noStore_setF_cost (s : State) (f : Byte) (n : Nat) : noStore s (State.cost { s with f := f } n) :=
  noStore_trans (s.noStore_setF f) (State.noStore_cost _ n)

theorem State.noStore_setAF_cost (s : State) (a f : Byte) (n : Nat) :
    noStore s (State.cost { s with a := a, f := f } n) :=
  noStore_trans (s.noStore_setReg .a a) (State.noStore_setF_cost _ f n)

/-! ### `Z` from the new `a`, the other three flags as given -/

/-- The accumulator is written with its flags at cost `k`: `Z` says whether it is 0, and nothing else changes. -/
def writesAFlags (s t : State) (n h c : Bool) (k : Nat) : Prop :=
  flags s t (decide (t.a.toNat = 0)) n h c ∧ within s t [.a] k ∧ noStore s t

theorem State.writesAFlags_alu_cost (s : State) {op : Byte → Byte → Byte → Byte × Byte} {v : Byte} {n h c : Bool}
    (k : Nat) (hf : (op s.a v s.f).2 = setZNHC s.f ((op s.a v s.f).1 == 0) n h c) :
    writesAFlags s ((s.alu op v).cost k) n h c k :=
  ⟨flags_of_eq_setZNHC (hf.trans (by rw [byte_beq_zero]; rfl)), (State.WritesRegs.alu s op v).within_cost k,
    s.noStore_setAF_cost _ _ k⟩

/-! ### Sums and differences -/

/-- The `C` flag as a number is the carry-in the operations take (R183, R189). -/
theorem State.carry_eq (s : State) : carry s = (flagC s.f).toNat := by
  unfold carry flagC
  cases s.f.getLsbD 4 <;> rfl

theorem ofInt_byte_toNat (i : Int) : ((BitVec.ofInt 8 i).toNat : Int) = i % 256 := by
  rw [BitVec.toNat_ofInt]
  omega

theorem sub8_toNat (cin : Bool) (a v f : Byte) :
    ((sub8 cin a v f).1.toNat : Int) = ((a.toNat : Int) - v.toNat - cin.toNat) % 256 :=
  ofInt_byte_toNat _

section
variable (s : State) {op : Byte → Byte → Byte → Byte × Byte} {v : Byte} (cin : Bool) (n : Nat)

theorem State.adds_alu_cost (hop : op s.a v s.f = add8 cin s.a v s.f) :
    adds s ((s.alu op v).cost n) v cin.toNat n :=
  ⟨(congrArg (·.1.toNat) hop).trans (add8_spec cin s.a v s.f).1, s.writesAFlags_alu_cost n (by rw [hop]; rfl)⟩

theorem State.subtracts_alu_cost (hop : op s.a v s.f = sub8 cin s.a v s.f) :
    subtracts s ((s.alu op v).cost n) v cin.toNat n :=
  ⟨(congrArg (fun r => (r.1.toNat : Int)) hop).trans (sub8_toNat cin s.a v s.f),
    s.writesAFlags_alu_cost n (by rw [hop]; rfl)⟩

end

theorem State.adds_aluAdd (s : State) (v : Byte) (n : Nat) : adds s ((s.alu aluAdd v).cost n) v 0 n :=
  s.adds_alu_cost false n rfl

theorem State.adds_aluAdc (s : State) (v : Byte) (n : Nat) : adds s ((s.alu aluAdc v).cost n) v (carry s) n :=
  s.carry_eq ▸ s.adds_alu_cost (flagC s.f) n rfl

theorem State.subtracts_aluSub (s : State) (v : Byte) (n : Nat) : subtracts s ((s.alu aluSub v).cost n) v 0 n :=
  s.subtracts_alu_cost false n rfl

theorem State.subtracts_aluSbc (s : State) (v : Byte) (n : Nat) : subtracts s ((s.alu aluSbc v).cost n) v (carry s) n :=
  s.carry_eq ▸ s.subtracts_alu_cost (flagC s.f) n rfl

/-- `CP` writes back the `a` it read, so only `f` changes (R201). -/
theorem State.compares_aluCp (s : State) (v : Byte) (n : Nat) : compares s ((s.alu aluCp v).cost n) v n := by
  refine ⟨?_, (State.WritesRegs.setF s _).within_cost n, s.noStore_setF_cost _ n⟩
  obtain ⟨hval, hflags, -⟩ := s.subtracts_aluSub v n
  simp only [← Int.natCast_eq_zero, hval, Nat.cast_zero, Int.sub_zero] at hflags
  exact hflags

/-! ### Bitwise operations -/

theorem State.combines_alu_cost (s : State) {op : Byte → Byte → Byte → Byte × Byte} {bit : Bool → Bool → Bool}
    {v : Byte} (n : Nat) (hbit : ∀ k, (op s.a v s.f).1.getLsbD k = bit (s.a.getLsbD k) (v.getLsbD k))
    (hf : (op s.a v s.f).2 = logicFlags s.f (op s.a v s.f).1) : combines s ((s.alu op v).cost n) bit v n :=
  ⟨fun k _ => hbit k, s.writesAFlags_alu_cost n hf⟩

theorem State.combines_aluAnd (s : State) (v : Byte) (n : Nat) : combines s ((s.alu aluAnd v).cost n) and v n :=
  s.combines_alu_cost n (fun _ => BitVec.getLsbD_and) rfl

theorem State.combines_aluXor (s : State) (v : Byte) (n : Nat) : combines s ((s.alu aluXor v).cost n) xor v n :=
  s.combines_alu_cost n (fun _ => BitVec.getLsbD_xor) rfl

theorem State.combines_aluOr (s : State) (v : Byte) (n : Nat) : combines s ((s.alu aluOr v).cost n) or v n :=
  s.combines_alu_cost n (fun _ => BitVec.getLsbD_or) rfl

/-! ### Operations that keep one of the flags -/

theorem getLsbD_complement (a : Byte) {k : Nat} (hk : k < 8) : (a ^^^ 0xFF).getLsbD k = !a.getLsbD k := by
  rw [show (0xFF : Byte) = BitVec.allOnes 8 from rfl, BitVec.xor_allOnes, BitVec.getLsbD_not, decide_eq_true hk,
    Bool.true_and]

theorem flags_of_eq_cpl8 {s t : State} (hf : t.f = (cpl8 s.a s.f).2) :
    flags s t (s.f.getLsbD 7) true (s.f.getLsbD 5) (s.f.getLsbD 4) := by
  unfold flags
  simp only [hf, cpl8, getLsbD_setN]
  refine ⟨rfl, rfl, rfl, rfl, fun k hk => ?_⟩
  rw [if_neg (by omega)]

/-- `SCF` and `CCF` differ in the bit they write to `C` only (R206, R207). -/
theorem flags_of_eq_setC_setH_setN {s t : State} {c : Bool} (hf : t.f = setC (setH (setN s.f false) false) c) :
    flags s t (s.f.getLsbD 7) false false c := by
  unfold flags
  simp only [hf, getLsbD_setC, getLsbD_setH, getLsbD_setN]
  refine ⟨rfl, rfl, rfl, rfl, fun k hk => ?_⟩
  rw [if_neg (by omega), if_neg (by omega), if_neg (by omega)]

end Sys2Proof.Machine
end

section
/-! The claims about the 8-bit arithmetic and logic with every source (43_alu8.md R180 to R203), and about `CPL`, `SCF` and
`CCF`. -/

namespace Sys2Proof.Machine

open Sys2Proof.Claim

/-- The register forms have the operation's code in `y` and the source's in `z` (R99, R101). -/
theorem decodes_alu_reg {i : Instr} {y : Nat} {r : Reg8} (h : encode i = [xyz 2 y r.code]) (hwf : i.wf = true)
    (hcb : i ≠ .cbPrefix) : decodes [opcode 2 y (code r)] i :=
  decodes_of_encode_eq (by rw [h, code_eq]; rfl) hwf hcb

/-- Settles O11: the two sums, each with its own source. -/
theorem addAdc : Obligations.AddAdc := by
  refine ⟨fun r => decodes_alu_reg rfl rfl nofun, decodes_of_encode_eq rfl rfl nofun,
    fun n => decodes_of_encode_eq rfl rfl nofun, fun r => decodes_alu_reg rfl rfl nofun,
    decodes_of_encode_eq rfl rfl nofun, fun n => decodes_of_encode_eq rfl rfl nofun, fun s => ?_⟩
  rw [atHL_eq]
  exact ⟨fun r => ⟨_, rfl, s.adds_aluAdd _ 1⟩, ⟨_, rfl, s.adds_aluAdd _ 2⟩,
    fun n => ⟨_, rfl, s.adds_aluAdd n 2⟩, fun r => ⟨_, rfl, s.adds_aluAdc _ 1⟩,
    ⟨_, rfl, s.adds_aluAdc _ 2⟩, fun n => ⟨_, rfl, s.adds_aluAdc n 2⟩⟩

/-- Settles O12: the two differences, each with its own source. -/
theorem subSbc : Obligations.SubSbc := by
  refine ⟨fun r => decodes_alu_reg rfl rfl nofun, decodes_of_encode_eq rfl rfl nofun,
    fun n => decodes_of_encode_eq rfl rfl nofun, fun r => decodes_alu_reg rfl rfl nofun,
    decodes_of_encode_eq rfl rfl nofun, fun n => decodes_of_encode_eq rfl rfl nofun, fun s => ?_⟩
  rw [atHL_eq]
  exact ⟨fun r => ⟨_, rfl, s.subtracts_aluSub _ 1⟩, ⟨_, rfl, s.subtracts_aluSub _ 2⟩,
    fun n => ⟨_, rfl, s.subtracts_aluSub n 2⟩, fun r => ⟨_, rfl, s.subtracts_aluSbc _ 1⟩,
    ⟨_, rfl, s.subtracts_aluSbc _ 2⟩, fun n => ⟨_, rfl, s.subtracts_aluSbc n 2⟩⟩

/-- Settles O13: every form is `compares_aluCp` with its own source. -/
theorem compareWithAccumulator : Obligations.CompareWithAccumulator := by
  refine ⟨fun r => decodes_alu_reg rfl rfl nofun, decodes_of_encode_eq rfl rfl nofun,
    fun n => decodes_of_encode_eq rfl rfl nofun, fun s => ?_⟩
  rw [atHL_eq]
  refine ⟨fun r => ?_, ?_, fun n => ?_⟩
  all_goals exact ⟨_, rfl, s.compares_aluCp _ _⟩

/-- Settles O14: the three operations by their bits, each with its own source. -/
theorem bitwiseLogic : Obligations.BitwiseLogic := by
  refine ⟨fun r => decodes_alu_reg rfl rfl nofun, decodes_of_encode_eq rfl rfl nofun,
    fun n => decodes_of_encode_eq rfl rfl nofun, fun r => decodes_alu_reg rfl rfl nofun,
    decodes_of_encode_eq rfl rfl nofun, fun n => decodes_of_encode_eq rfl rfl nofun,
    fun r => decodes_alu_reg rfl rfl nofun, decodes_of_encode_eq rfl rfl nofun,
    fun n => decodes_of_encode_eq rfl rfl nofun, fun s => ?_⟩
  rw [atHL_eq]
  exact ⟨fun r => ⟨_, rfl, s.combines_aluAnd _ 1⟩, ⟨_, rfl, s.combines_aluAnd _ 2⟩,
    fun n => ⟨_, rfl, s.combines_aluAnd n 2⟩, fun r => ⟨_, rfl, s.combines_aluXor _ 1⟩,
    ⟨_, rfl, s.combines_aluXor _ 2⟩, fun n => ⟨_, rfl, s.combines_aluXor n 2⟩,
    fun r => ⟨_, rfl, s.combines_aluOr _ 1⟩, ⟨_, rfl, s.combines_aluOr _ 2⟩,
    fun n => ⟨_, rfl, s.combines_aluOr n 2⟩⟩

/-- Settles O17: `CPL` writes `a` and `N`, `SCF` and `CCF` write `f` alone. -/
theorem complementAndCarry : Obligations.ComplementAndCarry := by
  refine ⟨decodes_of_encode_eq rfl rfl nofun, decodes_of_encode_eq rfl rfl nofun, decodes_of_encode_eq rfl rfl nofun,
    fun s => ⟨⟨_, rfl, fun k hk => getLsbD_complement s.a hk, flags_of_eq_cpl8 rfl,
      (State.WritesRegs.setAF s _ _).within_cost 1, s.noStore_setAF_cost _ _ 1⟩, ?scf, ?ccf⟩⟩
  all_goals exact ⟨_, rfl, flags_of_eq_setC_setH_setN rfl, (State.WritesRegs.setF s _).within_cost 1, s.noStore_setF_cost _ 1⟩

end Sys2Proof.Machine
end

section
/-! The claims about `DAA` (43_alu8.md R204), alone and after an addition. -/

namespace Sys2Proof.Machine

open Sys2Proof.Claim

/-- The model tests the low digit of `a`, the rule that of `v` after the upper adjustment: the same digit, since 0x60 is a
multiple of 16. -/
theorem daaAdjust_eq_daa (a f : Byte) : daaAdjust a f = daa a.toNat (f.getLsbD 6) (f.getLsbD 5) (f.getLsbD 4) := by
  unfold daaAdjust daa flagN flagH flagC
  generalize f.getLsbD 6 = n, f.getLsbD 5 = h, f.getLsbD 4 = c, a.toNat = v
  cases n with
  | true => rfl
  | false =>
    have hgt : ((v : Int) > 0x99) = (v > 0x99) := by
      rw [eq_iff_iff]
      omega
    have hlow : ∀ w : Int, w % 16 = v % 16 → (w % 16 > 0x09) = (v % 16 > 0x09) := by
      intro w hw
      rw [eq_iff_iff]
      omega
    by_cases hup : c = true ∨ v > 0x99
    · have hor : (c || decide (v > 0x99)) = true := by simpa using hup
      simp only [hor, hgt, if_pos hup, hlow (v + 0x60) (by omega)]
      simp
    · have hor : (c || decide (v > 0x99)) = c := by simp [not_or.mp hup]
      simp only [hor, hgt, if_neg hup, hlow v rfl]
      simp [not_or.mp hup]

theorem flags_of_eq_daa8 {s t : State} (hf : t.f = (daa8 s.a s.f).2) :
    flags s t (decide ((daa8 s.a s.f).1.toNat = 0)) (s.f.getLsbD 6) false
      (daa s.a.toNat (s.f.getLsbD 6) (s.f.getLsbD 5) (s.f.getLsbD 4)).2 := by
  rw [← daaAdjust_eq_daa, ← byte_beq_zero]
  unfold flags
  simp only [hf, daa8, getLsbD_setC, getLsbD_setH, getLsbD_setZ]
  refine ⟨rfl, rfl, rfl, rfl, fun k hk => ?_⟩
  rw [if_neg (by omega), if_neg (by omega), if_neg (by omega)]

theorem daa8_toNat (a f : Byte) :
    ((daa8 a f).1.toNat : Int) = (daa a.toNat (f.getLsbD 6) (f.getLsbD 5) (f.getLsbD 4)).1 % 256 := by
  rw [← daaAdjust_eq_daa]
  exact ofInt_byte_toNat _

/-- Settles O15: the model's adjustment is the rule's, and the flags come from it. -/
theorem decimalAdjust : Obligations.DecimalAdjust :=
  ⟨decodes_of_encode_eq rfl rfl nofun, fun s => ⟨_, rfl, daa8_toNat s.a s.f, flags_of_eq_daa8 rfl,
    (State.WritesRegs.setAF s _ _).within_cost 1, s.noStore_setAF_cost _ _ 1⟩⟩

/-! ### After an addition -/

/-- From the sum `x` of the tens and the sum `d` of the ones, the latter below 16: the upper adjustment is made exactly when
the sum reaches 100, the lower one exactly when the ones reach 10. -/
theorem daa_of_digit_sums {x d raw sum : Nat} (hx : x ≤ 18) (hd : d < 16) (hraw : raw = 16 * x + d)
    (hsum : sum = 10 * x + d) :
    (daa (raw % 256) false false (decide (raw > 255))).1 % 256 = 16 * (sum / 10 % 10) + sum % 10 ∧
      (daa (raw % 256) false false (decide (raw > 255))).2 = decide (100 ≤ sum) := by
  have hup : (raw > 255 ∨ ((raw % 256 : Nat) : Int) > 0x99) ↔ 100 ≤ sum := by omega
  have hlow : ∀ w : Int, w % 16 = d → (w % 16 > 0x09 ↔ 10 ≤ d) := by omega
  simp only [daa, if_true, Bool.false_eq_true, false_or, decide_eq_true_iff, hup]
  by_cases hcarry : 100 ≤ sum
  · simp only [if_pos hcarry, hlow ((raw % 256 : Nat) + 0x60) (by omega), decide_eq_true hcarry, and_true]
    split <;> omega
  · have hfit : ¬ raw > 255 := fun h => hcarry (hup.mp (.inl h))
    simp only [if_neg hcarry, hlow (raw % 256 : Nat) (by omega), decide_eq_false hcarry, decide_eq_false hfit, and_true]
    split <;> omega

/-- Settles O16: `ADC` adds the tens and the ones and clears `N` and `H`, so `DAA` makes the digits of the sum. -/
theorem decimalAddition : Obligations.DecimalAddition := by
  intro s x1 x0 y1 y0 v hx1 hx0 hy1 hy0 hones ha hv
  obtain ⟨hsum, ⟨-, hN, hH, hC, -⟩, -⟩ := s.adds_aluAdc v 2
  obtain ⟨-, hdaa⟩ := decimalAdjust
  obtain ⟨u, hu, hval, ⟨-, -, -, huC, -⟩, -⟩ := hdaa ((s.alu aluAdc v).cost 2)
  rw [hN, hH, hC, hsum] at hval huC
  obtain ⟨hdigits, hcarry⟩ := daa_of_digit_sums (x := x1 + y1) (raw := s.a.toNat + v.toNat + carry s)
    (sum := 10 * x1 + x0 + (10 * y1 + y0) + carry s) (by omega) hones (by omega) (by omega)
  exact ⟨_, u, rfl, hu, by exact_mod_cast hval.trans hdigits, huC.trans hcarry⟩

end Sys2Proof.Machine
end

section
/-! The claims about bit test, reset and set (44_bit.md R220 to R225). -/

namespace Sys2Proof.Machine

open Sys2Proof.Claim

/-- The register forms of the secondary table have the register's code in `z` (R95, R102). -/
theorem decodes_cb_reg {i : Instr} {x y : Nat} {r : Reg8} (h : encode i = [0xCB, xyz x y r.code]) (hwf : i.wf = true)
    (hcb : i ≠ .cbPrefix) : decodes [0xCB, opcode x y (code r)] i :=
  decodes_of_encode_eq (by rw [h, code_eq]; rfl) hwf hcb

/-! ### The byte at `hl` -/

/-- Settles O20: the byte stored is the byte read at the same address, by its bits. -/
theorem resSetMemory : Obligations.ResSetMemory := by
  refine ⟨fun _ hb => decodes_of_encode_eq rfl (decide_eq_true hb) nofun,
    fun _ hb => decodes_of_encode_eq rfl (decide_eq_true hb) nofun, fun s b hb => ?_⟩
  rw [atHL_eq, s.pair_h_l]
  exact ⟨⟨_, _, rfl, fun k hk => getLsbD_resBit b s.atHL k hb hk, s.storesByte_memWrite_cost s.hl _ 4⟩,
    ⟨_, _, rfl, fun k hk => getLsbD_setBit b s.atHL k hb hk, s.storesByte_memWrite_cost s.hl _ 4⟩⟩

/-! ### The tested bit -/

theorem flags_of_eq_bitFlags {s t : State} {b : Nat} {v : Byte} (hf : t.f = bitFlags b v s.f) :
    flags s t (!v.getLsbD b) false false (s.f.getLsbD 4) := by
  unfold flags
  simp only [hf, bitFlags, getLsbD_setH, getLsbD_setN, getLsbD_setZ]
  refine ⟨rfl, rfl, rfl, rfl, fun k hk => ?_⟩
  rw [if_neg (by omega), if_neg (by omega), if_neg (by omega)]

/-- Bit `b` of `v` is tested at cost `n`: nothing but `f` changes (R220, R221). -/
def testsBit (s t : State) (b : Nat) (v : Byte) (n : Nat) : Prop :=
  flags s t (!v.getLsbD b) false false (s.f.getLsbD 4) ∧ within s t [] n ∧ noStore s t

theorem State.testsBit_setF_cost (s : State) (b : Nat) (v : Byte) (n : Nat) :
    testsBit s (State.cost { s with f := bitFlags b v s.f } n) b v n :=
  ⟨flags_of_eq_bitFlags rfl, (State.WritesRegs.setF s _).within_cost n, s.noStore_setF_cost _ n⟩

/-- Settles O18: both forms are `testsBit_setF_cost`, with the register and with the byte at `hl`. -/
theorem bitTest : Obligations.BitTest := by
  refine ⟨fun _ _ hb => decodes_cb_reg rfl (decide_eq_true hb) nofun,
    fun _ hb => decodes_of_encode_eq rfl (decide_eq_true hb) nofun, fun s b _ => ?_⟩
  rw [atHL_eq]
  exact ⟨fun r => ⟨_, rfl, s.testsBit_setF_cost b (s.reg r) 2⟩, ⟨_, rfl, s.testsBit_setF_cost b s.atHL 3⟩⟩

/-! ### One bit of a register -/

/-- Bit `b` of the register `r` becomes `x`, its other bits stay; no flag, nothing else (R222, R224). -/
def writesBit (s t : State) (r : Reg8) (b : Nat) (x : Bool) (n : Nat) : Prop :=
  (∀ k, k < 8 → (t.reg r).getLsbD k = if k = b then x else (s.reg r).getLsbD k) ∧ t.f = s.f ∧ within s t [r] n ∧
    noStore s t

theorem State.writesBit_setReg_cost (s : State) {r : Reg8} {b : Nat} {x : Bool} {v : Byte} (n : Nat)
    (hv : ∀ k, k < 8 → v.getLsbD k = if k = b then x else (s.reg r).getLsbD k) :
    writesBit s ((s.setReg r v).cost n) r b x n := by
  obtain ⟨hval, hframe⟩ := s.loads_setReg_cost r v n
  exact ⟨fun k hk => by rw [hval, hv k hk], hframe⟩

/-- Settles O19: the register is loaded with its own byte, the one bit changed. -/
theorem resSetRegister : Obligations.ResSetRegister := by
  refine ⟨fun _ _ hb => decodes_cb_reg rfl (decide_eq_true hb) nofun,
    fun _ _ hb => decodes_cb_reg rfl (decide_eq_true hb) nofun, fun s b r hb => ?_⟩
  exact ⟨⟨_, rfl, s.writesBit_setReg_cost 2 fun k hk => getLsbD_resBit b (s.reg r) k hb hk⟩,
    ⟨_, rfl, s.writesBit_setReg_cost 2 fun k hk => getLsbD_setBit b (s.reg r) k hb hk⟩⟩

end Sys2Proof.Machine
end

section
/-! The claims about rotates and shifts (45_rotate_shift.md R229 to R245). -/

namespace Sys2Proof.Machine

open Sys2Proof.Claim

/-! ### `Z`, `N`, `H` and `C` from the value computed -/

theorem flags_of_eq_shift {s t : State} {op : Byte → Bool → Byte × Bool} {v : Byte} (hf : t.f = (shift op v s.f).2) :
    flags s t (decide ((op v (flagC s.f)).1.toNat = 0)) false false (op v (flagC s.f)).2 :=
  flags_of_eq_setZNHC (by rw [hf, ← byte_beq_zero]; rfl)

/-! ### A register -/

/-- The register is the number the datapath function makes, and `C` its carry-out (R234 to R245). -/
theorem State.rotatesR_onReg_cost (s : State) {r : Reg8} {op : Byte → Bool → Byte × Bool} {w : Nat}
    (hw : (op (s.reg r) (flagC s.f)).1.toNat = w) :
    rotatesR s ((s.onReg r (shift op)).cost 2) r w (op (s.reg r) (flagC s.f)).2 := by
  subst hw
  exact ⟨congrArg BitVec.toNat (s.reg_onReg_same r (shift op)), flags_of_eq_shift rfl,
    (State.WritesRegs.onReg s r (shift op)).within_cost 2, noStore_trans (s.noStore_onReg r _) (State.noStore_cost _ 2)⟩

/-- Settles O22: `rotatesR_onReg_cost` with each function's number; the carry-in of `RL` and `RR` is the `C` flag. -/
theorem rotateRegister : Obligations.RotateRegister := by
  refine ⟨fun r => decodes_cb_reg rfl rfl nofun, fun r => decodes_cb_reg rfl rfl nofun,
    fun r => decodes_cb_reg rfl rfl nofun, fun r => decodes_cb_reg rfl rfl nofun, fun s r => ?_⟩
  rw [s.carry_eq]
  exact ⟨⟨_, rfl, s.rotatesR_onReg_cost (rlc8_toNat _ _)⟩, ⟨_, rfl, s.rotatesR_onReg_cost (rrc8_toNat _ _)⟩,
    ⟨_, rfl, s.rotatesR_onReg_cost (rl8_toNat _ _)⟩, ⟨_, rfl, s.rotatesR_onReg_cost (rr8_toNat _ _)⟩⟩

/-- Settles O24: a shift differs from a rotate in the number it makes only. -/
theorem shiftRegister : Obligations.ShiftRegister := by
  refine ⟨fun r => decodes_cb_reg rfl rfl nofun, fun r => decodes_cb_reg rfl rfl nofun,
    fun r => decodes_cb_reg rfl rfl nofun, fun r => decodes_cb_reg rfl rfl nofun, fun s r => ?_⟩
  exact ⟨⟨_, rfl, s.rotatesR_onReg_cost (sla8_toNat _ _)⟩, ⟨_, rfl, s.rotatesR_onReg_cost (sra8_toNat _ _)⟩,
    ⟨_, rfl, s.rotatesR_onReg_cost (sll8_toNat _ _)⟩, ⟨_, rfl, s.rotatesR_onReg_cost (srl8_toNat _ _)⟩⟩

/-! ### The byte at `hl` -/

/-- The byte stored and the flags both come from the value computed, also where the store is ignored (R235). -/
theorem State.rotatesHL_onHL_cost (s : State) {op : Byte → Bool → Byte × Bool} {w : Nat}
    (hw : (op s.atHL (flagC s.f)).1.toNat = w) :
    rotatesHL s ((s.onHL (shift op)).cost 4) w (op s.atHL (flagC s.f)).2 := by
  subst hw
  refine ⟨?_, flags_of_eq_shift rfl, s.onHL_sp (shift op), (State.WritesRegs.onHL s (shift op)).within_cost 4⟩
  rw [s.pair_h_l, BitVec.ofNat_toNat, BitVec.setWidth_eq]
  exact stores_trans_noStore (s.stores_onHL (shift op)) (State.noStore_cost _ 4)

/-- Settles O23: `rotatesHL_onHL_cost` with each function's number. -/
theorem rotateMemory : Obligations.RotateMemory := by
  refine ⟨decodes_of_encode_eq rfl rfl nofun, decodes_of_encode_eq rfl rfl nofun, decodes_of_encode_eq rfl rfl nofun,
    decodes_of_encode_eq rfl rfl nofun, fun s => ?_⟩
  rw [atHL_eq, s.carry_eq]
  exact ⟨⟨_, rfl, s.rotatesHL_onHL_cost (rlc8_toNat _ _)⟩, ⟨_, rfl, s.rotatesHL_onHL_cost (rrc8_toNat _ _)⟩,
    ⟨_, rfl, s.rotatesHL_onHL_cost (rl8_toNat _ _)⟩, ⟨_, rfl, s.rotatesHL_onHL_cost (rr8_toNat _ _)⟩⟩

/-! ### The accumulator -/

theorem flags_of_eq_setC {s t : State} {c : Bool} (hf : t.f = setC s.f c) :
    flags s t (s.f.getLsbD 7) (s.f.getLsbD 6) (s.f.getLsbD 5) c := by
  unfold flags
  simp only [hf, getLsbD_setC]
  refine ⟨rfl, rfl, rfl, rfl, fun k hk => ?_⟩
  rw [if_neg (by omega)]

/-- Here `Z`, `N` and `H` are kept: only `a` and `C` are written (R230 to R233). -/
theorem State.rotatesA_rotateA_cost (s : State) {op : Byte → Bool → Byte × Bool} {w : Nat}
    (hw : (op s.a (flagC s.f)).1.toNat = w) : rotatesA s ((s.rotateA op).cost 1) w (op s.a (flagC s.f)).2 :=
  ⟨hw, flags_of_eq_setC rfl, (State.WritesRegs.setAF s _ _).within_cost 1, s.noStore_setAF_cost _ _ 1⟩

/-- Settles O21: `rotatesA_rotateA_cost` with each function's number. -/
theorem rotateAccumulator : Obligations.RotateAccumulator := by
  refine ⟨decodes_of_encode_eq rfl rfl nofun, decodes_of_encode_eq rfl rfl nofun, decodes_of_encode_eq rfl rfl nofun,
    decodes_of_encode_eq rfl rfl nofun, fun s => ?_⟩
  rw [s.carry_eq]
  exact ⟨⟨_, rfl, s.rotatesA_rotateA_cost (rlc8_toNat _ _)⟩, ⟨_, rfl, s.rotatesA_rotateA_cost (rl8_toNat _ _)⟩,
    ⟨_, rfl, s.rotatesA_rotateA_cost (rrc8_toNat _ _)⟩, ⟨_, rfl, s.rotatesA_rotateA_cost (rr8_toNat _ _)⟩⟩

end Sys2Proof.Machine
end

section
/-! The claim about `ADD HL,rr` (46_arith16.md R260). -/

namespace Sys2Proof.Machine

open Sys2Proof.Claim

theorem plus_eq_add16 (hl v : Word) (f : Byte) : plus hl v.toNat = (add16 hl v f).1 := by
  apply BitVec.eq_of_toNat_eq
  rw [plus_toNat, (add16_spec hl v f).1]

/-- Settles O25: the new `f`, in which `C` alone is written, then the sum to `hl`. -/
theorem addHL : Obligations.AddHL := by
  refine ⟨fun p => decodes_of_encode_eq (by rw [pairCode_eq]; rfl) rfl nofun, fun s p => ?_⟩
  rw [s.pairValue_eq_rr, s.pair_h_l, plus_eq_add16 s.hl (s.rr p) s.f]
  have hf := State.WritesRegs.setF s (add16 s.hl (s.rr p) s.f).2
  have hmem := s.noStore_setF (add16 s.hl (s.rr p) s.f).2
  exact ⟨_, rfl, s.setsHL_setHL _, flags_of_eq_setC (add16_spec s.hl (s.rr p) s.f).2,
    (hf.trans (.setHL _ _)).within_cost 2, noStore_trans hmem (noStore_trans (State.noStore_setHL _ _) (State.noStore_cost _ 2))⟩

end Sys2Proof.Machine
end

section
/-! SUPPORT. A push, and a pop into any pair (47_stack.md R270 to R275; 10_state.md R22, R23). -/

namespace Sys2Proof.Machine

open Sys2Proof.Claim

/-! ### The words and codes the statements write out (00_scope.md R9; 30_encoding.md R96) -/

/-- Adding 65534 subtracts 2 (00_scope.md R9). -/
theorem plus_65534 (v : Word) : plus v 65534 = v - 2 := by
  apply BitVec.eq_of_toNat_eq
  rw [plus_toNat, BitVec.toNat_sub]
  simp [Nat.add_comm]

theorem plus_two (v : Word) : plus v 2 = v + 2 := by
  apply BitVec.eq_of_toNat_eq
  simp [plus]

theorem plus_65534_one (v : Word) : plus (plus v 65534) 1 = plus v 65535 := plus_plus v 65534 1

theorem plus_65534_two (v : Word) : plus (plus v 65534) 2 = v := by
  rw [plus_plus]
  apply BitVec.eq_of_toNat_eq
  rw [plus_toNat, Nat.add_mod_right, Nat.mod_eq_of_lt v.isLt]

theorem pair_high_low (v : Word) : pair (high v) (low v) = v := by
  rw [pair_eq_joinBytes, high_eq_hiByte, low_eq_loByte, joinBytes_hi_lo]

theorem pair_inj {hi lo hi' lo' : Byte} (h : pair hi lo = pair hi' lo') : hi = hi' ∧ lo = lo' := by
  rw [pair_eq_joinBytes, pair_eq_joinBytes] at h
  have hhi := congrArg hiByte h
  have hlo := congrArg loByte h
  rw [hiByte_joinBytes, hiByte_joinBytes] at hhi
  rw [loByte_joinBytes, loByte_joinBytes] at hlo
  exact ⟨hhi, hlo⟩

theorem stackCode_eq (q : QQ) : stackCode q = q.code := by
  cases q <;> rfl

theorem wf_popRr {q : QQ} (hq : q ≠ .af) : (Instr.popRr q).wf = true := by
  cases q with
  | bc | de | hl => rfl
  | af => exact absurd rfl hq

/-! ### A pair of the stack instructions -/

/-- The registers `qq[p]` is made of; `f` is none of the seven. -/
def stackRegs : QQ → List Reg8
  | .bc => [.b, .c]
  | .de => [.d, .e]
  | .hl => [.h, .l]
  | .af => [.a]

theorem State.stackValue_eq_qq (s : State) (q : QQ) : stackValue s q = s.qq q := by
  cases q <;> exact pair_eq_joinBytes _ _

theorem State.stackValue_setQQ (s : State) (q : QQ) (v : Word) : stackValue (s.setQQ q v) q = v := by
  cases q <;> exact (pair_eq_joinBytes _ _).trans (joinBytes_hi_lo v)

theorem reg_eq_of_stackValue_eq {s t : State} {q : QQ} (h : stackValue t q = stackValue s q) {r : Reg8}
    (hr : r ∈ stackRegs q) : t.reg r = s.reg r := by
  cases q with
  | bc | de | hl =>
    obtain ⟨hhi, hlo⟩ := pair_inj h
    obtain rfl | rfl := List.mem_pair.mp hr
    · exact hhi
    · exact hlo
  | af =>
    obtain rfl := List.mem_singleton.mp hr
    exact (pair_inj h).1

/-- A state with a pair's old value that has kept the other registers has kept all seven. -/
theorem sameRegs_of_stackValue_eq {s t : State} {q : QQ} (h : stackValue t q = stackValue s q)
    (hregs : sameRegs s t (stackRegs q)) : sameRegs s t [] := by
  intro r _
  by_cases hr : r ∈ stackRegs q
  · exact reg_eq_of_stackValue_eq h hr
  · exact hregs r hr

/-- `f` is part of `af` and of no other pair. -/
theorem f_eq_of_stackValue_eq {s t : State} {q : QQ} (h : stackValue t q = stackValue s q) (hf : q ≠ .af → t.f = s.f) :
    t.f = s.f := by
  cases q with
  | bc | de | hl => exact hf nofun
  | af => exact (pair_inj h).2

/-! ### Frames -/

namespace State.WritesRegs

theorem setQQ (s : State) (q : QQ) (v : Word) : s.WritesRegs (s.setQQ q v) (stackRegs q) := by
  cases q with
  | bc => exact (setReg s .b (hiByte v)).trans (setReg _ .c (loByte v))
  | de => exact (setReg s .d (hiByte v)).trans (setReg _ .e (loByte v))
  | hl => exact setHL s v
  | af => exact setAF s (hiByte v) (loByte v)

theorem push16 (s : State) (v : Word) : s.WritesRegs (s.push16 v) [] :=
  (((setSp s _).trans (memWrite _ _ _)).trans (setSp _ _)).trans (memWrite _ _ _)

theorem pop16 (s : State) : s.WritesRegs s.pop16.2 [] :=
  setSp s _

end State.WritesRegs

theorem State.sameMemory_setQQ (s : State) (q : QQ) (v : Word) : sameMemory s (s.setQQ q v) := by
  cases q <;> exact sameMemory_of_sameArrays rfl fun _ => rfl

theorem State.sameMemory_pop16 (s : State) : sameMemory s s.pop16.2 :=
  sameMemory_of_sameArrays rfl fun _ => rfl

/-! ### `Push16` -/

/-- The two byte writes of a push, the low byte's last (R270). -/
theorem State.storesTwo_push16 (s : State) (v : Word) :
    storesTwo s (s.push16 v) (plus s.sp 65535) (high v) (plus s.sp 65534) (low v) := by
  rw [s.push16_eq, plus_65535, plus_65534, high_eq_hiByte, low_eq_loByte]
  exact storesTwo_of_stores (s.stores_memWrite _ _) (State.stores_memWrite _ _ _)

/-- A push, whatever happens after it to `pc`, the latch and the cost: `sp` and the arrays are those the push leaves. -/
theorem State.pushes_of_sameArrays {s t : State} {v : Word} (hsp : t.sp = (s.push16 v).sp)
    (harr : sameArrays (s.push16 v) t) : pushes s t v := by
  obtain ⟨hbios, hrom, -⟩ := s.storesTwo_push16 v
  refine ⟨?_, (harr .bios).trans hbios, (harr .rom).trans hrom, fun B => ?_⟩
  · rw [hsp, s.push16_eq, plus_65534]
  · obtain ⟨-, -, hread⟩ := State.storesTwo_push16 { s with inbios := t.inbios } v
    rw [readUnder, ← hread B, State.push16_withInbios]
    exact State.memRead_congr (s := { s.push16 v with inbios := t.inbios }) (t := t) rfl harr B

/-! ### `Pop16` after `Push16` -/

/-- What was pushed is popped when both bytes land in storage: they never land in the same cell (R271, R275 (c)). -/
theorem popped_of_pushes {s t : State} {v : Word} (h : pushes s t v) (hhi : stored (plus s.sp 65535) = true)
    (hlo : stored (plus s.sp 65534) = true) : popped t = v := by
  obtain ⟨hsp, -, -, hread⟩ := h
  have hcell := cell_plus_one_ne (plus s.sp 65534)
  rw [plus_65534_one] at hcell
  rw [popped, hsp, plus_65534_one, hread, hread]
  simp [hits, hhi, hlo, hcell, pair_high_low]

/-! ### A pop into any pair -/

/-- The word at `sp` goes to the pair `q`, at cost 3; `f` is written as part of `af` only, and nothing else (R273, R274). -/
def popsPair (s t : State) (q : QQ) : Prop :=
  stackValue t q = popped s ∧ (q ≠ .af → t.f = s.f) ∧ t.sp = plus s.sp 2 ∧ within s t (stackRegs q) 3 ∧ sameMemory s t

theorem State.popsPair_pop16_setQQ_cost (s : State) (q : QQ) :
    popsPair s ((s.pop16.2.setQQ q s.pop16.1).cost 3) q := by
  obtain ⟨hword, hsp⟩ := s.pop16_spec
  refine ⟨?_, fun hq => s.pop16.2.setQQ_f _ hq, ?_, ((State.WritesRegs.pop16 s).trans (.setQQ _ q _)).within_cost 3,
    sameMemory_trans s.sameMemory_pop16 (sameMemory_trans (State.sameMemory_setQQ _ q _) (State.sameMemory_cost _ 3))⟩
  · rw [popped, pair_eq_joinBytes, plus_one, ← hword]
    exact s.pop16.2.stackValue_setQQ q s.pop16.1
  · rw [plus_two, ← hsp]
    exact s.pop16.2.setQQ_sp q s.pop16.1

/-- The pair's two bytes, for a pair without `f`. -/
theorem popsPair.bytes {s t : State} {q : QQ} {hi lo : Byte} (h : popsPair s t q) (hq : q ≠ .af)
    (hpair : stackValue t q = pair hi lo) :
    hi = s.memRead (plus s.sp 1) ∧ lo = s.memRead s.sp ∧ t.f = s.f ∧ t.sp = plus s.sp 2 ∧ within s t (stackRegs q) 3 ∧
      sameMemory s t := by
  obtain ⟨hword, hf, hframe⟩ := h
  obtain ⟨hhi, hlo⟩ := pair_inj (hpair.symm.trans hword)
  exact ⟨hhi, hlo, hf hq, hframe⟩

/-- The instruction that pops a pair: `POP AF` is one of its own (R274). -/
theorem exec_pop (s : State) (q : QQ) :
    exec (if q = .af then .popAF else .popRr q) s = .next ((s.pop16.2.setQQ q s.pop16.1).cost 3) := by
  cases q <;> rfl

end Sys2Proof.Machine
end

section
/-! The claims about the stack instructions (47_stack.md R270 to R275). -/

namespace Sys2Proof.Machine

open Sys2Proof.Claim

/-- Settles O26: after the push only the cost is charged, so the latch is as it was. -/
theorem pushPair : Obligations.PushPair := by
  refine ⟨fun q => decodes_of_encode_eq (by rw [stackCode_eq]; rfl) rfl nofun, fun s q => ?_⟩
  rw [s.stackValue_eq_qq]
  exact ⟨_, rfl, State.pushes_of_sameArrays rfl fun _ => rfl, s.push16_f _, (State.WritesRegs.push16 s _).within_cost 4⟩

/-- Settles O27: a pop writes the word to the pair, and the pair is its two bytes. -/
theorem popPair : Obligations.PopPair := by
  refine ⟨fun q hq => decodes_of_encode_eq (by rw [stackCode_eq]; rfl) (wf_popRr hq) nofun,
    decodes_of_encode_eq rfl rfl nofun, fun s => ?_⟩
  have hpops := s.popsPair_pop16_setQQ_cost
  obtain ⟨hword, -, hframe⟩ := hpops .af
  obtain ⟨ha, hf⟩ := pair_inj hword
  exact ⟨⟨_, rfl, (hpops .bc).bytes nofun rfl⟩, ⟨_, rfl, (hpops .de).bytes nofun rfl⟩,
    ⟨_, rfl, (hpops .hl).bytes nofun rfl⟩, ⟨_, rfl, ha, hf, hframe⟩⟩

/-- Settles O28: what was pushed is popped, and neither instruction writes anything else of the registers. -/
theorem pushPopRoundTrip : Obligations.PushPopRoundTrip := by
  intro s q hhi hlo
  obtain ⟨-, hpushes⟩ := pushPair
  obtain ⟨t, ht, hpush, htf, htregs, -⟩ := hpushes s q
  obtain ⟨hword, huf, husp, ⟨huregs, -⟩, -⟩ := t.popsPair_pop16_setQQ_cost q
  have hval := hword.trans (popped_of_pushes hpush hhi hlo)
  obtain ⟨htsp, -⟩ := hpush
  refine ⟨t, _, ht, exec_pop t q, hval, ?sp, f_eq_of_stackValue_eq hval fun hq => (huf hq).trans htf,
    sameRegs_of_stackValue_eq hval fun r hr => (huregs r hr).trans (htregs r List.not_mem_nil)⟩
  case sp => rw [husp, htsp, plus_65534_two]

end Sys2Proof.Machine
end

section
/-! SUPPORT. The frame of a control transfer (48_control_transfer.md R280 to R282; 10_state.md R31): what is done before `pc`
is written, the write of `pc`, and the cost. -/

namespace Sys2Proof.Machine

open Sys2Proof.Claim

/-! ### Conditions and their codes (R281; 30_encoding.md R97) -/

theorem condCode_eq (cc : Cond) : condCode cc = cc.code := by
  cases cc <;> rfl

theorem condHolds_iff (cc : Cond) (s : State) : condHolds cc s.f = true ↔ holds s cc := by
  cases cc with
  | nz | nc => exact Iff.of_eq (Bool.not_eq_true' _)
  | z | c => exact Iff.rfl

/-! A conditional meaning is its first branch where the condition holds, its second where it does not. -/

section
variable {s : State} {cc : Cond} {x y : Result}

theorem ite_of_holds (h : holds s cc) : (if condHolds cc s.f then x else y) = x :=
  if_pos ((condHolds_iff cc s).mpr h)

theorem ite_of_not_holds (h : ¬ holds s cc) : (if condHolds cc s.f then x else y) = y :=
  if_neg (mt (condHolds_iff cc s).mp h)

end

/-! ### `pc` and the BIOS latch -/

theorem bne_latchAddress (v : Word) : (v != Config.latchAddress) = decide (v.toNat ≠ 0x0100) := by
  rw [Bool.eq_iff_iff, bne_iff_ne, decide_eq_true_iff, ne_eq, ← BitVec.toNat_inj]
  rfl

theorem goesTo_writePc_cost {s u : State} (hin : u.inbios = s.inbios) (v : Word) (n : Nat) :
    goesTo s ((u.writePc v).cost n) v :=
  ⟨rfl, by rw [State.cost_inbios, State.writePc_inbios, hin, bne_latchAddress]⟩

theorem noWrite_writePc_cost {s u : State} (harr : sameArrays s u) (v : Word) (n : Nat) :
    noWrite s ((u.writePc v).cost n) :=
  let t := (u.writePc v).cost n
  ⟨harr, State.memRead_congr (s := { s with inbios := t.inbios }) (t := t) rfl harr⟩

/-! ### The frame -/

section
variable {s u : State} {regs : List Reg8} (h : s.WritesRegs u regs) (hf : u.f = s.f)
include h hf

theorem transfer_cost (n : Nat) : transfer s (u.cost n) regs n :=
  ⟨h.regs, hf, h.run, rfl, rfl⟩

theorem transfer_writePc_cost (v : Word) (n : Nat) : transfer s ((u.writePc v).cost n) regs n :=
  ⟨h.regs, hf, h.run, rfl, rfl⟩

theorem falls_cost (hmem : noStore s u) (n : Nat) : falls s (u.cost n) regs n := by
  obtain ⟨hsp, hread⟩ := hmem
  exact ⟨transfer_cost h hf n, h.pc, hsp, h.ime, sameMemory_trans hread (u.sameMemory_cost n)⟩

end

theorem State.WritesRegs.refl (s : State) : s.WritesRegs s [] :=
  setF s s.f

theorem noStore_refl (s : State) : noStore s s := s.noStore_setF s.f

/-- A conditional transfer whose condition fails. -/
theorem State.falls_cost (s : State) (n : Nat) : falls s (s.cost n) [] n :=
  Machine.falls_cost (.refl s) rfl (noStore_refl s) n

/-! ### Jumps, calls, returns -/

/-- `pc <- target` at cost `n`; no register but the listed ones, no flag, nothing else (R290 to R294, R301). -/
def jumps (s t : State) (target : Word) (regs : List Reg8) (n : Nat) : Prop :=
  goesTo s t target ∧ t.sp = s.sp ∧ t.ime = s.ime ∧ noWrite s t ∧ transfer s t regs n

theorem jumps_writePc_cost {s u : State} {regs : List Reg8} (h : s.WritesRegs u regs) (hf : u.f = s.f)
    (hmem : noStore s u) (v : Word) (n : Nat) : jumps s ((u.writePc v).cost n) v regs n := by
  obtain ⟨hsp, harr, -⟩ := hmem
  exact ⟨goesTo_writePc_cost h.pc.2 v n, hsp, h.ime, noWrite_writePc_cost harr v n, transfer_writePc_cost h hf v n⟩

theorem State.jumps_writePc_cost (s : State) (v : Word) (n : Nat) : jumps s ((s.writePc v).cost n) v [] n :=
  Machine.jumps_writePc_cost (.refl s) rfl (noStore_refl s) v n

/-- `Push16(pc)`, then `pc <- target`, at cost `n` (R295, R296, R300). -/
def calls (s t : State) (target : Word) (n : Nat) : Prop :=
  pushes s t s.pc ∧ goesTo s t target ∧ t.ime = s.ime ∧ transfer s t [] n

theorem State.calls_push16_writePc_cost (s : State) (v : Word) (n : Nat) :
    calls s (((s.push16 s.pc).writePc v).cost n) v n :=
  have h := State.WritesRegs.push16 s s.pc
  ⟨State.pushes_of_sameArrays rfl fun _ => rfl, goesTo_writePc_cost h.pc.2 v n, h.ime,
    transfer_writePc_cost h (s.push16_f s.pc) v n⟩

/-- `pc <- Pop16()` at cost `n` (R297, R299). -/
def returns (s t : State) (n : Nat) : Prop :=
  goesTo s t (popped s) ∧ t.sp = plus s.sp 2 ∧ t.ime = s.ime ∧ noWrite s t ∧ transfer s t [] n

theorem State.popped_eq_pop16 (s : State) : popped s = s.pop16.1 := by
  rw [popped, pair_eq_joinBytes, plus_one, s.pop16_spec.1]

theorem State.returns_pop16_writePc_cost (s : State) (n : Nat) :
    returns s ((s.pop16.2.writePc s.pop16.1).cost n) n := by
  have h := State.WritesRegs.pop16 s
  unfold returns
  rw [s.popped_eq_pop16, plus_two, ← s.pop16_spec.2]
  exact ⟨goesTo_writePc_cost h.pc.2 _ n, rfl, h.ime, noWrite_writePc_cost s.sameMemory_pop16.1 _ n,
    transfer_writePc_cost h rfl _ n⟩

end Sys2Proof.Machine
end

section
/-! The claims about control transfer (48_control_transfer.md R290 to R301). -/

namespace Sys2Proof.Machine

open Sys2Proof.Claim

/-! ### Calls and restarts -/

/-- The conditional forms with an operand word have the condition in `y` (R97, R99). -/
theorem decodes_cond_word {i : Instr} {z : Nat} {cc : Cond} {lo hi : Byte}
    (h : encode i = xyz 3 cc.code z :: wordBytes (pair hi lo)) (hwf : i.wf = true) (hcb : i ≠ .cbPrefix) :
    decodes [opcode 3 (condCode cc) z, lo, hi] i :=
  decodes_of_encode_eq (by rw [h, condCode_eq, wordBytes_pair]; rfl) hwf hcb

/-- Settles O32: the push of `pc`, then the jump; or the cost alone. -/
theorem callSubroutine : Obligations.CallSubroutine :=
  ⟨fun lo hi => decodes_of_encode_eq (congrArg _ (wordBytes_pair hi lo)) rfl nofun,
    fun _ _ _ => decodes_cond_word rfl rfl nofun, fun s nn =>
    ⟨⟨_, rfl, s.calls_push16_writePc_cost nn 6⟩, fun _ hcc => ⟨_, ite_of_holds hcc, s.calls_push16_writePc_cost nn 6⟩,
      fun _ hcc => ⟨_, ite_of_not_holds hcc, s.falls_cost 3⟩⟩⟩

theorem rst_target {y : Nat} (hy : y < 8) :
    (Instr.rst (BitVec.ofNat 8 (y * 8))).wf = true ∧ encode (.rst (BitVec.ofNat 8 (y * 8))) = [opcode 3 y 7] ∧
      joinBytes 0 (BitVec.ofNat 8 (y * 8)) = BitVec.ofNat 16 (y * 8) := by
  interval_cases y <;> decide

/-- Settles O34: `RST` calls the word whose high byte is 0 and whose low byte is the vector. -/
theorem restartVectors : Obligations.RestartVectors := by
  intro y hy
  obtain ⟨hwf, henc, htarget⟩ := rst_target hy
  refine ⟨decodes_of_encode_eq henc hwf nofun, fun s => ?_⟩
  rw [← htarget]
  exact ⟨_, rfl, s.calls_push16_writePc_cost _ 4⟩

/-! ### Jumps -/

/-- Settles O29: the jump to an operand or to `hl`; or the cost alone. -/
theorem jumpAbsolute : Obligations.JumpAbsolute := by
  refine ⟨fun lo hi => decodes_of_encode_eq (congrArg _ (wordBytes_pair hi lo)) rfl nofun,
    fun _ _ _ => decodes_cond_word rfl rfl nofun, decodes_of_encode_eq rfl rfl nofun, fun s => ?_⟩
  rw [s.pair_h_l]
  exact ⟨fun nn => ⟨_, rfl, s.jumps_writePc_cost nn 4⟩,
    fun _ nn hcc => ⟨_, ite_of_holds hcc, s.jumps_writePc_cost nn 4⟩,
    fun _ _ hcc => ⟨_, ite_of_not_holds hcc, s.falls_cost 3⟩, ⟨_, rfl, s.jumps_writePc_cost s.hl 1⟩⟩

/-- A branch writes `pc` plus the signed offset (R282). -/
theorem State.jumps_branch_cost (s : State) (e : Byte) (n : Nat) :
    jumps s ((s.branch e).cost n) (plus s.pc (sext e)) [] n :=
  plus_sext s.pc e ▸ s.jumps_writePc_cost _ n

/-- Settles O30: the branch; or the cost alone. -/
theorem relativeJump : Obligations.RelativeJump :=
  ⟨fun _ => decodes_of_encode_eq rfl rfl nofun,
    fun cc _ => decodes_of_encode_eq (by rw [condCode_eq]; rfl) rfl nofun, fun s =>
    ⟨fun e => ⟨_, rfl, s.jumps_branch_cost e 3⟩, fun _ e hcc => ⟨_, ite_of_holds hcc, s.jumps_branch_cost e 3⟩,
      fun _ _ hcc => ⟨_, ite_of_not_holds hcc, s.falls_cost 2⟩⟩⟩

/-- `b - 1` is 0 exactly when `b` is 1: 0 wraps to 255 (R301). -/
theorem byte_sub_one (b : Byte) : (b - 1).toNat = (b.toNat + 255) % 256 ∧ (b - 1 = 0 ↔ b.toNat = 1) := by
  constructor
  · rw [BitVec.toNat_sub, Nat.add_comm]
    rfl
  · rw [← BitVec.toNat_inj]
    bv_omega

/-- Settles O31: `b - 1` to `b`, then the branch; or the cost alone. -/
theorem decrementAndJump : Obligations.DecrementAndJump := by
  refine ⟨fun _ => decodes_of_encode_eq rfl rfl nofun, fun s e => ?_⟩
  obtain ⟨hval, hzero⟩ := byte_sub_one s.b
  have hregs := State.WritesRegs.setReg s .b (s.b - 1)
  have hmem := s.noStore_setReg .b (s.b - 1)
  rw [plus_sext]
  exact ⟨fun hb => ⟨_, if_neg (mt hzero.mp hb), hval, jumps_writePc_cost hregs rfl hmem _ 3⟩,
    fun hb => ⟨_, if_pos (hzero.mpr hb), congrArg BitVec.toNat (hzero.mpr hb), falls_cost hregs rfl hmem 2⟩⟩

/-! ### Returns -/

/-- Settles O33: the popped word to `pc`, for `RETI` with `ime` set after it; or the cost alone. -/
theorem returnFromSubroutine : Obligations.ReturnFromSubroutine := by
  refine ⟨decodes_of_encode_eq rfl rfl nofun, decodes_of_encode_eq rfl rfl nofun,
    fun cc => decodes_of_encode_eq (by rw [condCode_eq]; rfl) rfl nofun, fun s => ?_⟩
  have hret := s.returns_pop16_writePc_cost
  obtain ⟨hgo, hsp, -, hframe⟩ := hret 4
  exact ⟨⟨_, rfl, hret 4⟩, ⟨_, rfl, hgo, hsp, rfl, hframe⟩, fun _ hcc => ⟨_, ite_of_holds hcc, hret 5⟩,
    fun _ hcc => ⟨_, ite_of_not_holds hcc, s.falls_cost 2⟩⟩

end Sys2Proof.Machine
end

section
/-! SUPPORT. The cases of `step()` with the status it returns (60_exceptions.md R333, R350, R351; decision D31). -/

namespace Sys2Proof.Machine

open Sys2Proof.Claim

theorem stopped_or_halted_or_running (s : State) :
    s.stop = true ∨ (s.stop = false ∧ s.halt = true) ∨ running s := by
  cases hstop : s.stop <;> cases hhalt : s.halt <;> simp [running, hstop, hhalt]

theorem step_of_stopped {s : State} (hstop : s.stop = true) : step s = .next s ∧ stepStatus s = .stopped := by
  simp [step, stepStatus, hstop]

theorem step_of_halted {s : State} (hstop : s.stop = false) (hhalt : s.halt = true) :
    step s = .next s.idle ∧ stepStatus s = .halted := by
  simp [step, stepStatus, hstop, hhalt]

theorem stepStatus_of_running {s u : State} (hrun : running s) (hu : exec s.fetchInstr.1 s.fetchInstr.2 = .next u) :
    stepStatus s = if u.stop then .fault else .ok := by
  have hstep := step_of_running hrun hu
  obtain ⟨hstop, hhalt⟩ := hrun
  cases hfault : u.stop <;> simp [stepStatus, hstop, hhalt, hstep, hfault]

/-- A step of a running machine, given what the instruction at `pc` answers with `pc` past its bytes. -/
theorem step_of_decode {s u : State} {i : Instr} {rest : List Byte} (hrun : running s)
    (hdec : decode (bytesAt s) = .ok (i, rest)) (hu : exec i (past (3 - rest.length) s) = .next u) :
    step s = .next (if u.stop then u else u.account) ∧ stepStatus s = if u.stop then .fault else .ok :=
  have hexec := (exec_fetchInstr hdec).trans hu
  ⟨step_of_running hrun hexec, stepStatus_of_running hrun hexec⟩

end Sys2Proof.Machine
end

section
/-! The claims about control and meta instructions, `0xCB` and the unassigned slots (49_control_meta.md R310 to R316). -/

namespace Sys2Proof.Machine

open Sys2Proof.Claim

/-- Settles O35: each of the four handlers is its one write and the cost; a halted machine's step is the idle cycle. -/
theorem nopHaltDiEi : Obligations.NopHaltDiEi :=
  ⟨decodes_of_encode_eq rfl rfl nofun, decodes_of_encode_eq rfl rfl nofun, decodes_of_encode_eq rfl rfl nofun,
    decodes_of_encode_eq rfl rfl nofun, fun _ =>
    ⟨rfl, rfl, fun _ hstop hhalt => (step_of_halted hstop hhalt).1, rfl, rfl⟩⟩

/-- Settles O36: `0xCB` runs the row of the byte at `pc`, and a row is run as the instruction it stands for. -/
theorem prefixDispatch : Obligations.PrefixDispatch := by
  refine ⟨fun _ => rfl, fun s => ?_⟩
  obtain ⟨t, ht, -⟩ := exec_answers .cbPrefix s
  have hrun : exec .cbPrefix s = execSecondary (secondaryRow (byteAt 0 s)) (past 1 s) := by
    rw [past_succ]
    rfl
  exact ⟨_, t, decodes_cb rfl [], hrun.trans (execSecondary_eq _ _), ht⟩

/-! ### The unassigned slots -/

theorem exec_unassignedPrimary {x : Byte × Instr} (hx : x ∈ unassignedPrimary) (s : State) :
    exec x.2 s = .next (s.raiseFault false x.1 (s.pc - 1)) := by
  fin_cases hx <;> rfl

theorem exec_unassignedSecondary {x : Byte × Instr} (hx : x ∈ unassignedSecondary) (s : State) :
    exec x.2 s = .next (s.raiseFault true x.1 (s.pc - 1)) := by
  fin_cases hx <;> rfl

theorem decodes_unassigned {i : Instr} {bytes : List Byte} (hi : i ∈ unassignedInstrs) (henc : encode i = bytes) :
    decodes bytes i := by
  obtain ⟨hwf, hcb⟩ := wf_of_mem_unassignedInstrs i hi
  exact decodes_of_encode_eq henc hwf hcb

/-- Settles O37: each slot's encoding is its byte, and its handler raises the fault. -/
theorem unassignedSlots : Obligations.UnassignedSlots := by
  refine ⟨fun x hx => ⟨?_, fun s => ?_⟩, fun x hx => ⟨?_, fun s => ?_⟩⟩
  · exact decodes_unassigned (mem_unassignedInstrs.mpr (.inl ⟨x, hx, rfl⟩)) (encode_unassignedPrimary x hx)
  · rw [plus_65535]
    exact exec_unassignedPrimary hx s
  · exact decodes_unassigned (mem_unassignedInstrs.mpr (.inr ⟨x, hx, rfl⟩)) (encode_unassignedSecondary x hx)
  · rw [plus_65535]
    exact exec_unassignedSecondary hx s

end Sys2Proof.Machine
end

section
/-! The claims about the execution loop (60_exceptions.md R331, R333, R350, R351; 70_reset_and_hazards.md R374, R376). -/

namespace Sys2Proof.Machine

open Sys2Proof.Claim

/-! ### What a step runs (R350) -/

/-- Settles O38: three bytes always decode, and every instruction answers a next state. -/
theorem stepRunsDecodedInstruction : Obligations.StepRunsDecodedInstruction := by
  intro s hrun
  obtain ⟨i, rest, hdec⟩ := decode_three_bytes (byteAt 0 s) (byteAt 1 s) (byteAt 2 s)
  obtain ⟨t, ht, -⟩ := exec_answers i (past (3 - rest.length) s)
  exact ⟨i, rest, t, hdec, ht, step_of_decode hrun hdec ht⟩

/-- Settles O39: `stop` is tested first, then `halt`. -/
theorem stepStoppedOrHalted : Obligations.StepStoppedOrHalted :=
  fun _ => ⟨step_of_stopped, step_of_halted⟩

/-! ### The fault (R331) -/

/-- Back from past an instruction's last byte to that byte. -/
theorem past_succ_pc_plus_65535 (k : Nat) (s : State) : plus (past (k + 1) s).pc 65535 = plus s.pc k := by
  rw [past_pc, plus_plus]
  apply BitVec.eq_of_toNat_eq
  rw [plus_toNat, plus_toNat]
  omega

/-- A step whose instruction, of `k + 1` bytes, takes the fault: the recorded address is that of its last byte. -/
theorem step_of_fault {s : State} {i : Instr} {rest : List Byte} {p : Bool} {o : Byte} {k : Nat} (hrun : running s)
    (hdec : decode (bytesAt s) = .ok (i, rest)) (hlen : 3 - rest.length = k + 1)
    (hexec : ∀ u : State, exec i u = .next { u with fault := some ⟨p, o, plus u.pc 65535⟩, stop := true }) :
    step s = .next { past (k + 1) s with fault := some ⟨p, o, plus s.pc k⟩, stop := true } ∧ stepStatus s = .fault := by
  have h := step_of_decode hrun hdec (hexec _)
  rw [hlen, past_succ_pc_plus_65535] at h
  exact h

theorem plus_zero (v : Word) : plus v 0 = v := by
  simp [plus]

/-- Settles O40: the byte decodes to its slot's instruction, which takes the fault. -/
theorem faultEntry : Obligations.FaultEntry := by
  intro s hrun
  obtain ⟨hprimary, hsecondary⟩ := unassignedSlots
  constructor
  · rintro ⟨x, hx, hbyte⟩
    obtain ⟨hdec, hexec⟩ := hprimary x hx
    have h := step_of_fault (k := 0) hrun (by rw [bytesAt, hbyte]; exact hdec _) rfl hexec
    rw [plus_zero, ← hbyte] at h
    exact h
  · rintro hcb ⟨x, hx, hbyte⟩
    obtain ⟨hdec, hexec⟩ := hsecondary x hx
    have h := step_of_fault (k := 1) hrun (by rw [bytesAt, hcb, hbyte]; exact hdec _) rfl hexec
    rw [← hbyte] at h
    exact h

/-! ### The cost (R374, R376) -/

/-- Settles O42: of the cases of a step, a running machine has the last two, the cost or the fault. -/
theorem costBounds : Obligations.CostBounds := by
  intro s ⟨hstop, hhalt⟩
  rcases step_cases s with ⟨hs, _⟩ | ⟨_, hh, _⟩ | ⟨u, n, _, _, k, pos, le, hu, e⟩ | ⟨u, p, o, _, _, k, _, hm, ht, e⟩
  · simp [hstop] at hs
  · simp [hhalt] at hh
  · have ks := s.fetchInstr_keeps.trans k
    exact ⟨_, e, fun _ => ⟨pos, le, rfl, congrArg (· + n) ks.clockM, congrArg (· + 4 * n) ks.clockT⟩,
      fun h => by simp [hu] at h⟩
  · have ks := s.fetchInstr_keeps.trans k
    exact ⟨_, e, nofun, fun _ => ⟨hm, ht, ks.clockM, ks.clockT⟩⟩

end Sys2Proof.Machine
end

section
/-! The claim that no outcome depends on `ime` (60_exceptions.md R340, R341; 10_state.md R32): what an operation does to a state
with another `ime` is what it does to the state, with that `ime`. -/

namespace Sys2Proof.Machine

open Sys2Proof.Claim

/-! ### The shared operations -/

theorem State.setReg_withIme (s : State) (x : Bool) (r : Reg8) (v : Byte) :
    State.setReg { s with ime := x } r v = { s.setReg r v with ime := x } := by
  cases r <;> rfl

theorem State.setRR_withIme (s : State) (x : Bool) (p : RR) (v : Word) :
    State.setRR { s with ime := x } p v = { s.setRR p v with ime := x } := by
  cases p <;> rfl

theorem State.setQQ_withIme (s : State) (x : Bool) (q : QQ) (v : Word) :
    State.setQQ { s with ime := x } q v = { s.setQQ q v with ime := x } := by
  cases q <;> rfl

theorem State.memWriteWord_withIme (s : State) (x : Bool) (A v : Word) :
    State.memWriteWord { s with ime := x } A v = { s.memWriteWord A v with ime := x } := by
  unfold State.memWriteWord
  rw [s.memWrite_withIme x, State.memWrite_withIme]

theorem State.onReg_withIme (s : State) (x : Bool) (r : Reg8) (op : Byte → Byte → Byte × Byte) :
    State.onReg { s with ime := x } r op = { s.onReg r op with ime := x } := by
  cases r <;> rfl

theorem State.onHL_withIme (s : State) (x : Bool) (op : Byte → Byte → Byte × Byte) :
    State.onHL { s with ime := x } op = { s.onHL op with ime := x } := by
  have h := s.memWrite_withIme x s.hl (op s.atHL s.f).1
  exact congrArg (fun t => { t with f := (op s.atHL s.f).2 }) h

/-! ### An instruction -/

/-- Both results are next states, and these differ in `ime` only. -/
def DifferInIme (r r' : Result) : Prop := ∃ t y, r = .next t ∧ r' = .next { t with ime := y }

theorem DifferInIme.ite {c : Prop} [Decidable c] {r r' q q' : Result} (h : DifferInIme r r') (g : DifferInIme q q') :
    DifferInIme (if c then r else q) (if c then r' else q') := by
  split
  · exact h
  · exact g

/-- An operation that carries `ime` along, and the cost after it. -/
theorem DifferInIme.cost {s t : State} {x : Bool} (n : Nat) (h : t = { s with ime := x }) :
    DifferInIme (.next (s.cost n)) (.next (t.cost n)) :=
  h ▸ ⟨_, x, rfl, rfl⟩

/-- Every instruction but `0xCB`, by the operation it runs; where it only reads and writes fields, both sides compute. `DI`,
`EI` and `RETI` write `ime`. -/
theorem exec_withIme_of_ne_cbPrefix {i : Instr} (hcb : i ≠ .cbPrefix) (s : State) (x : Bool) :
    DifferInIme (exec i s) (exec i { s with ime := x }) := by
  cases i with
  | cbPrefix => exact absurd rfl hcb
  | ldRR r _ | ldRHL r | ldRN r _ | resR _ r | setR _ r => exact .cost _ (s.setReg_withIme x r _)
  | ldHLR _ | ldHLN _ | ldBCA | ldDEA | ldhNA _ | ldCA | ldNnA _ | resHL _ | setHL _ =>
    exact .cost _ (s.memWrite_withIme x _ _)
  | ldiHLA | lddHLA => exact .cost (x := x) 2 (congrArg (State.setHL · _) (s.memWrite_withIme x s.hl s.a))
  | ldRrNn p _ | incRr p | decRr p => exact .cost _ (s.setRR_withIme x p _)
  | ldNnSP _ => exact .cost _ (s.memWriteWord_withIme x _ _)
  | incR r | decR r | rlcR r | rrcR r | rlR r | rrR r | slaR r | sraR r | sllR r | srlR r =>
    exact .cost _ (s.onReg_withIme x r _)
  | incHL | decHL | rlcHL | rrcHL | rlHL | rrHL => exact .cost _ (s.onHL_withIme x _)
  | pushQq q => exact .cost _ (s.push16_withIme x _)
  | popRr q => exact .cost _ (s.pop16.2.setQQ_withIme x q _)
  | callNn _ | rst _ => exact .cost _ (congrArg (State.writePc · _) (s.push16_withIme x _))
  | callCcNn _ _ => exact .ite (.cost _ (congrArg (State.writePc · _) (s.push16_withIme x _))) ⟨_, x, rfl, rfl⟩
  | jpCcNn _ _ | jrCc _ _ | retCc _ | djnz _ => exact .ite ⟨_, x, rfl, rfl⟩ ⟨_, x, rfl, rfl⟩
  | di => exact ⟨_, false, rfl, rfl⟩
  | ei | reti => exact ⟨_, true, rfl, rfl⟩
  | _ => exact ⟨_, x, rfl, rfl⟩

/-- Every instruction: `0xCB` runs the instruction of a secondary row. -/
theorem exec_withIme (i : Instr) (s : State) (x : Bool) : DifferInIme (exec i s) (exec i { s with ime := x }) := by
  by_cases hcb : i = .cbPrefix
  · subst hcb
    have h := exec_withIme_of_ne_cbPrefix (toInstr_ne_cbPrefix (secondaryRow s.fetch8.1)) s.fetch8.2 x
    rw [← execSecondary_eq, ← execSecondary_eq] at h
    exact h
  · exact exec_withIme_of_ne_cbPrefix hcb s x

/-! ### A step -/

/-- The fetch gives the same instruction, and carries `ime` along. -/
theorem State.fetchInstr_withIme (s : State) (x : Bool) :
    State.fetchInstr { s with ime := x } = (s.fetchInstr.1, { s.fetchInstr.2 with ime := x }) := by
  have hop : State.fetch8 { s with ime := x } = (s.fetch8.1, { s.fetch8.2 with ime := x }) := rfl
  unfold State.fetchInstr
  rw [hop]
  dsimp only
  cases primaryRow s.fetch8.1 <;> rfl

/-- Settles O59, by the three cases of a step; one that runs an instruction by `exec_withIme`. -/
theorem imeIsNeverRead : Obligations.ImeIsNeverRead := by
  intro s t x h
  rcases stopped_or_halted_or_running s with hstop | ⟨hstop, hhalt⟩ | hrun
  · obtain ⟨hstep, hstatus⟩ := step_of_stopped hstop
    obtain ⟨hstep', hstatus'⟩ := step_of_stopped (s := { s with ime := x }) hstop
    cases hstep.symm.trans h
    exact ⟨_, hstep', rfl, hstatus'.trans hstatus.symm⟩
  · obtain ⟨hstep, hstatus⟩ := step_of_halted hstop hhalt
    obtain ⟨hstep', hstatus'⟩ := step_of_halted (s := { s with ime := x }) hstop hhalt
    cases hstep.symm.trans h
    exact ⟨_, hstep', rfl, hstatus'.trans hstatus.symm⟩
  · obtain ⟨u, y, hu, hu'⟩ := exec_withIme s.fetchInstr.1 s.fetchInstr.2 x
    replace hu' := (congrArg (fun r => exec r.1 r.2) (s.fetchInstr_withIme x)).trans hu'
    have hrun' : running { s with ime := x } := hrun
    cases (step_of_running hrun hu).symm.trans h
    refine ⟨_, step_of_running hrun' hu', ?_,
      (stepStatus_of_running hrun' hu').trans (stepStatus_of_running hrun hu).symm⟩
    split <;> rfl

end Sys2Proof.Machine
end

section
/-! The claims about power-on, `reset()` and `loadRom` (70_reset_and_hazards.md R360 to R366). -/

namespace Sys2Proof.Machine

open Sys2Proof.Claim

/-- Settles O51: every field of `State.reset` has its value written out, and every array is the empty list. -/
theorem powerOnState : Obligations.PowerOnState := by
  refine ⟨fun r => ?_, rfl, rfl, rfl, rfl, rfl, rfl, rfl, rfl, rfl, rfl, rfl, rfl, fun r _ i => ?_⟩
  · cases r <;> rfl
  · cases r <;> exact Memory.get_nil i

theorem State.sameArrays_hostReset (s : State) : sameArrays s s.hostReset := by
  intro r
  cases r <;> rfl

theorem State.hostReset_hostReset (s : State) : s.hostReset.hostReset = s.hostReset := rfl

/-- `pc` is 0 under the latch, so BIOS is read first (R363). -/
theorem State.byteAt_zero_hostReset (s : State) : byteAt 0 s.hostReset = s.bios.get 0 := rfl

/-- Settles O52: `reset()` keeps the arrays and takes every other field from power-on. -/
theorem hostReset : Obligations.HostReset := by
  intro s
  refine ⟨⟨fun r => ?_, rfl, rfl, rfl, rfl, rfl, rfl, rfl, rfl, rfl, rfl, rfl, rfl, s.sameArrays_hostReset⟩,
    s.hostReset_hostReset, ⟨rfl, rfl⟩, s.byteAt_zero_hostReset⟩
  cases r <;> rfl

/-! ### `loadRom` (R366) -/

theorem State.loadRom_rom_get (s : State) (bytes : List Byte) {i : Nat} (hi : i < 32768) :
    (s.loadRom bytes).rom.get i = if h : i < bytes.length then bytes[i] else 0 := by
  have hget := Memory.get_ofBytesFrom 0 i (bytes.take 32768)
  rw [if_pos (Nat.zero_le i), Nat.sub_zero, List.getD_eq_getElem?_getD, List.getElem?_take_of_lt hi] at hget
  refine hget.trans ?_
  split
  case isTrue h => rw [List.getElem?_eq_getElem h, Option.getD_some]
  case isFalse h => rw [List.getElem?_eq_none (Nat.le_of_not_lt h)]; rfl

/-- ROM is read below 0x8000 wherever the latch does not put BIOS over it (20_memory.md R52, R54). -/
theorem State.memRead_eq_rom_get (s : State) {A : Word} (hA : A.toNat < 0x8000)
    (hover : 0x0100 ≤ A.toNat ∨ s.inbios = false) : s.memRead A = s.rom.get A.toNat := by
  have hbios : (s.inbios && decide (A.toNat < 0x0100)) = false := by
    rcases hover with h | h
    · rw [decide_eq_false (by omega), Bool.and_false]
    · rw [h, Bool.false_and]
  have hloc : locate s.inbios A = .cell .rom A.toNat := by
    simp only [locate, if_pos hA, hbios, Bool.false_eq_true, if_false]
  rw [State.memRead_eq_readLoc, hloc]
  rfl

/-- Settles O53: `ROM` holds the list cut at its size, and the decoder reads it there. -/
theorem loadRom : Obligations.LoadRom := by
  refine fun s bytes => ⟨fun i => s.loadRom_rom_get bytes, rfl, fun A h hA hover => ?_⟩
  rw [State.memRead_eq_rom_get (s.loadRom bytes) hA hover, s.loadRom_rom_get bytes hA, dif_pos h]

end Sys2Proof.Machine
end
